-- ==== Sys2Proof/Word.lean ====
section
/-! DEFINITION. The word types of the cell: the 32-bit word of every register, the byte of a block or of a bus lane,
the 10-bit offset of the register window and the 4-bit byte strobe (R6, R7, R8, R31). -/

namespace Sys2Proof

/-- A 32-bit unsigned word; bit 0 is the least significant (R6, R8). `+` on words wraps modulo 2^32 (R9). -/
abbrev Word := BitVec 32

/-- One byte: a byte of the block or one lane of the bus (R17, R36). -/
abbrev Byte := BitVec 8

/-- A byte offset in the 1 KiB register window: ADDR[9:0] (R14, R30). -/
abbrev Offset := BitVec 10

/-- The byte-lane enables of a write; bit k enables lane k (R31). -/
abbrev Strobe := BitVec 4

end Sys2Proof
end

