-- ==== Sys2Proof/Machine/Rom.lean ====
section
/-! DEFINITION. The constants of the cell: ID (R25) and the schedule ROM, KROM and SROM, with the contents of R76.
No event changes them (R25, R26, R71), so they are constants here and not fields of State (log entry 12). -/

namespace Sys2Proof.Machine

/-- ID: bytes 'M', 'D', '5' and the revision, 1 (R25). -/
def idValue : Word := 0x4D443501

/-- KROM[0..15] (R76). -/
def kromStage1 : List Word :=
  [0xD76AA478, 0xE8C7B756, 0x242070DB, 0xC1BDCEEE,
   0xF57C0FAF, 0x4787C62A, 0xA8304613, 0xFD469501,
   0x698098D8, 0x8B44F7AF, 0xFFFF5BB1, 0x895CD7BE,
   0x6B901122, 0xFD987193, 0xA679438E, 0x49B40821]

/-- KROM[16..31] (R76). -/
def kromStage2 : List Word :=
  [0xF61E2562, 0xC040B340, 0x265E5A51, 0xE9B6C7AA,
   0xD62F105D, 0x02441453, 0xD8A1E681, 0xE7D3FBC8,
   0x21E1CDE6, 0xC33707D6, 0xF4D50D87, 0x455A14ED,
   0xA9E3E905, 0xFCEFA3F8, 0x676F02D9, 0x8D2A4C8A]

/-- KROM[32..47] (R76). -/
def kromStage3 : List Word :=
  [0xFFFA3942, 0x8771F681, 0x6D9D6122, 0xFDE5380C,
   0xA4BEEA44, 0x4BDECFA9, 0xF6BB4B60, 0xBEBFBC70,
   0x289B7EC6, 0xEAA127FA, 0xD4EF3085, 0x04881D05,
   0xD9D4D039, 0xE6DB99E5, 0x1FA27CF8, 0xC4AC5665]

/-- KROM[48..63] (R76). -/
def kromStage4 : List Word :=
  [0xF4292244, 0x432AFF97, 0xAB9423A7, 0xFC93A039,
   0x655B59C3, 0x8F0CCC92, 0xFFEFF47D, 0x85845DD1,
   0x6FA87E4F, 0xFE2CE6E0, 0xA3014314, 0x4E0811A1,
   0xF7537E82, 0xBD3AF235, 0x2AD7D2BB, 0xEB86D391]

/-- SROM[0..15] (R76). -/
def sromStage1 : List Word :=
  [0x00070000, 0x000C0100, 0x00110200, 0x00160300,
   0x00070400, 0x000C0500, 0x00110600, 0x00160700,
   0x00070800, 0x000C0900, 0x00110A00, 0x00160B00,
   0x00070C00, 0x000C0D00, 0x00110E00, 0x00160F00]

/-- SROM[16..31] (R76). -/
def sromStage2 : List Word :=
  [0x00050101, 0x00090601, 0x000E0B01, 0x00140001,
   0x00050501, 0x00090A01, 0x000E0F01, 0x00140401,
   0x00050901, 0x00090E01, 0x000E0301, 0x00140801,
   0x00050D01, 0x00090201, 0x000E0701, 0x00140C01]

/-- SROM[32..47] (R76). -/
def sromStage3 : List Word :=
  [0x00040502, 0x000B0802, 0x00100B02, 0x00170E02,
   0x00040102, 0x000B0402, 0x00100702, 0x00170A02,
   0x00040D02, 0x000B0002, 0x00100302, 0x00170602,
   0x00040902, 0x000B0C02, 0x00100F02, 0x00170202]

/-- SROM[48..63] (R76). -/
def sromStage4 : List Word :=
  [0x00060003, 0x000A0703, 0x000F0E03, 0x00150503,
   0x00060C03, 0x000A0303, 0x000F0A03, 0x00150103,
   0x00060803, 0x000A0F03, 0x000F0603, 0x00150D03,
   0x00060403, 0x000A0B03, 0x000F0203, 0x00150903]

/-- KROM[0..63], the additive constants (R70, R76). -/
def kromTable : List Word := kromStage1 ++ kromStage2 ++ kromStage3 ++ kromStage4

/-- SROM[0..63], the packed function, index and rotation words (R60, R70, R76). -/
def sromTable : List Word := sromStage1 ++ sromStage2 ++ sromStage3 ++ sromStage4

/-- K[i], the word KROM[i] (R44, R62). The index has six bits, so it is never out of range (R71). -/
def krom (i : BitVec 6) : Word := kromTable.getD i.toNat 0

/-- The word SROM[i] (R44, R60). -/
def srom (i : BitVec 6) : Word := sromTable.getD i.toNat 0

/-- The round whose SROM entry is the word `w`, where there is one. -/
def sromIndex (w : Word) : Option (BitVec 6) :=
  if w ∈ sromTable then some (BitVec.ofNat 6 (sromTable.idxOf w)) else none

end Sys2Proof.Machine
end

