-- ==== Sys2Proof/Syntax.lean ====
section
/-! DEFINITION. What the cell decodes: the host access record, the words of the four formats, and `Instr`, one
constructor for every mnemonic of spec/opcode_table.json. A mnemonic the table spreads over several rows
(ACC.MISALIGNED, ACC.UNMAPPED) is one instruction whose operand `addr` tells the rows apart (log entry 9). -/

namespace Sys2Proof

/-- One host access: the 47-bit access record of R54. A read ignores `wdata` and `wstrb`. -/
structure Access where
  we    : Bool
  addr  : Offset
  wdata : Word
  wstrb : Strobe
  deriving DecidableEq, Repr

/-- The four round functions, as the FN field of an SROM word names them (R61). -/
inductive RoundFn where
  | f | g | h | i
  deriving DecidableEq, Repr

/-- The three fields of an SROM word: function, message-word index and rotation amount (R60). -/
structure RoundEntry where
  fn     : RoundFn
  idx    : BitVec 4
  amount : BitVec 5
  deriving DecidableEq, Repr

/-- The four fixed-width formats the cell decodes, and no others (R53). -/
inductive Format where
  | bus | cmd | srom | seq
  deriving DecidableEq, Repr

/-- What is decoded, in each of the four formats of R53: a host access, a command word with the strobe it was
written with, an SROM word, or the round counter. -/
inductive Code where
  | bus  (a : Access)
  | cmd  (word : Word) (strobe : Strobe)
  | srom (word : Word)
  | seq  (rc : BitVec 7)
  deriving DecidableEq, Repr

/-- The format a code is written in. -/
def Code.format : Code → Format
  | .bus _ => .bus
  | .cmd _ _ => .cmd
  | .srom _ => .srom
  | .seq _ => .seq

/-- The instructions of the cell: the access kinds of the register interface (R55), the commands (R58, R59), the
round micro-operations (R61) and the sequencer steps (R63). -/
inductive Instr where
  /-- ACC.MISALIGNED: any access with addr[1:0] not 0 (R119). -/
  | accMisaligned (we : Bool) (addr : Offset)
  /-- RD.STATE: read STATE[n] (R106). -/
  | rdState (n : BitVec 2)
  /-- WR.STATE: write the enabled lanes of STATE[n] (R107). -/
  | wrState (n : BitVec 2) (wdata : Word) (wstrb : Strobe)
  /-- RD.CMD: read the CMD offset (R110). -/
  | rdCmd
  /-- WR.CMD: write CMD, that is, decode and execute a command word (R102). -/
  | wrCmd (wdata : Word) (wstrb : Strobe)
  /-- RD.STATUS: read STATUS (R111). -/
  | rdStatus
  /-- WR.STATUS: a write to the read-only STATUS (R117). -/
  | wrStatus (wdata : Word) (wstrb : Strobe)
  /-- RD.CTRL: read CTRL (R112). -/
  | rdCtrl
  /-- WR.CTRL: write CTRL (R113). -/
  | wrCtrl (wdata : Word) (wstrb : Strobe)
  /-- RD.ID: read ID (R114). -/
  | rdId
  /-- WR.ID: a write to the read-only ID (R117). -/
  | wrId (wdata : Word) (wstrb : Strobe)
  /-- ACC.UNMAPPED: an aligned access to an unmapped offset (R118). -/
  | accUnmapped (we : Bool) (addr : Offset)
  /-- RD.MSG: read MSG[j] (R108). -/
  | rdMsg (j : BitVec 4)
  /-- WR.MSG: write the enabled lanes of MSG[j] (R109). -/
  | wrMsg (j : BitVec 4) (wdata : Word) (wstrb : Strobe)
  /-- RD.KROM: read KROM[i] (R115). -/
  | rdKrom (i : BitVec 6)
  /-- WR.KROM: a write to the read-only KROM[i] (R117). -/
  | wrKrom (i : BitVec 6) (wdata : Word) (wstrb : Strobe)
  /-- RD.SROM: read SROM[i] (R116). -/
  | rdSrom (i : BitVec 6)
  /-- WR.SROM: a write to the read-only SROM[i] (R117). -/
  | wrSrom (i : BitVec 6) (wdata : Word) (wstrb : Strobe)
  /-- NOP: command word 0 (R103). -/
  | nop
  /-- COMPRESS: command word 1 (R104). -/
  | compress
  /-- ACK: command word 2 (R105). -/
  | ack
  /-- CMD.ILLEGAL: any other command word, or a strobe other than 0b1111 (R59). -/
  | cmdIllegal (word : Word) (strobe : Strobe)
  /-- ROUND.F: a stage-1 round with message index `idx` and rotation `amount` (R86). -/
  | roundF (idx : BitVec 4) (amount : BitVec 5)
  /-- ROUND.G: a stage-2 round (R87). -/
  | roundG (idx : BitVec 4) (amount : BitVec 5)
  /-- ROUND.H: a stage-3 round (R88). -/
  | roundH (idx : BitVec 4) (amount : BitVec 5)
  /-- ROUND.I: a stage-4 round (R89). -/
  | roundI (idx : BitVec 4) (amount : BitVec 5)
  /-- SEQ.ROUND: the sequencer's step while RC = i < 64 (R93). -/
  | seqRound (i : BitVec 6)
  /-- SEQ.FEEDFORWARD: the sequencer's step while RC = 64 (R94). -/
  | seqFeedforward
  deriving DecidableEq, Repr

/-- The format an instruction is encoded in (R53). -/
def Instr.format : Instr → Format
  | .accMisaligned _ _ | .rdState _ | .wrState _ _ _ | .rdCmd | .wrCmd _ _ | .rdStatus | .wrStatus _ _
  | .rdCtrl | .wrCtrl _ _ | .rdId | .wrId _ _ | .accUnmapped _ _ | .rdMsg _ | .wrMsg _ _ _
  | .rdKrom _ | .wrKrom _ _ _ | .rdSrom _ | .wrSrom _ _ _ => .bus
  | .nop | .compress | .ack | .cmdIllegal _ _ => .cmd
  | .roundF _ _ | .roundG _ _ | .roundH _ _ | .roundI _ _ => .srom
  | .seqRound _ | .seqFeedforward => .seq

end Sys2Proof
end

