-- ==== Sys2Proof/WellFormed.lean ====
section
/-! DEFINITION. The instructions an encoding can carry: `Instr.wf`. Its two offset checks are written from the offset
ranges of R35 and R40, apart from the key patterns the decoder is written from. -/

namespace Sys2Proof

/-- The offset is aligned: addr[1:0] = 0 (R40). -/
def Offset.aligned (addr : Offset) : Bool := addr.toNat % 4 == 0

/-- The unmapped offsets: 0x020 to 0x03F, 0x080 to 0x0FF and 0x300 to 0x3FF (R35). -/
def Offset.unmapped (addr : Offset) : Bool :=
  (0x020 ≤ addr.toNat && addr.toNat ≤ 0x03F) || (0x080 ≤ addr.toNat && addr.toNat ≤ 0x0FF)
    || 0x300 ≤ addr.toNat

/-- The command word and its strobe are legal: one of the words 0, 1, 2 under a full strobe (R57, R59). -/
def legalCommand (word : Word) (strobe : Strobe) : Bool :=
  strobe == 0b1111#4 && (word == 0#32 || word == 1#32 || word == 2#32)

/-- What an encoding of the instruction can carry. A misaligned access has a misaligned offset (R119), an unmapped one
an aligned unmapped offset (R118), an illegal command an illegal word or strobe (R59), and a round a rotation amount
from 1 to 31 (R60). Every other operand is a field whose values are all legal (R64). -/
def Instr.wf : Instr → Bool
  | .accMisaligned _ addr => !addr.aligned
  | .accUnmapped _ addr => addr.aligned && addr.unmapped
  | .cmdIllegal word strobe => !legalCommand word strobe
  | .roundF _ amount | .roundG _ amount | .roundH _ amount | .roundI _ amount => amount != 0#5
  | .rdState _ | .wrState _ _ _ | .rdCmd | .wrCmd _ _ | .rdStatus | .wrStatus _ _ | .rdCtrl | .wrCtrl _ _
  | .rdId | .wrId _ _ | .rdMsg _ | .wrMsg _ _ _ | .rdKrom _ | .wrKrom _ _ _ | .rdSrom _ | .wrSrom _ _ _
  | .nop | .compress | .ack | .seqRound _ | .seqFeedforward => true

end Sys2Proof
end

