-- ==== Sys2Proof/Decode.lean ====
section
/-! DEFINITION. The decoders of the four formats (R53), the encoder, and the host's table-word decoder. The register
interface's decoder is the row table of R55 itself: masks and matches tried in the order given. -/

namespace Sys2Proof

/-- Why a code is refused by the decoder. The only code without a meaning is a round counter of 65 to 127
(R63, "unreachable"). -/
inductive DecodeError where
  | rcUnreachable
  deriving DecidableEq, Repr

/-- The access kinds of R55, one for each BUS mnemonic. -/
inductive BusKind where
  | accMisaligned | rdState | wrState | rdCmd | wrCmd | rdStatus | wrStatus | rdCtrl | wrCtrl | rdId | wrId
  | accUnmapped | rdMsg | wrMsg | rdKrom | wrKrom | rdSrom | wrSrom
  deriving DecidableEq, Repr

/-- One row of R55: a key belongs to it when its bits under `mask` are those of `pattern`. -/
structure BusRow where
  mask    : BitVec 11
  pattern : BitVec 11
  kind    : BusKind
  deriving DecidableEq, Repr

/-- The rows of R55 in their order; row 1 has three patterns. -/
def busRows : List BusRow :=
  [⟨0x003, 0x001, .accMisaligned⟩, ⟨0x003, 0x002, .accMisaligned⟩, ⟨0x003, 0x003, .accMisaligned⟩,
   ⟨0x7F3, 0x000, .rdState⟩, ⟨0x7F3, 0x400, .wrState⟩, ⟨0x7FF, 0x010, .rdCmd⟩, ⟨0x7FF, 0x410, .wrCmd⟩,
   ⟨0x7FF, 0x014, .rdStatus⟩, ⟨0x7FF, 0x414, .wrStatus⟩, ⟨0x7FF, 0x018, .rdCtrl⟩, ⟨0x7FF, 0x418, .wrCtrl⟩]
  ++ [⟨0x7FF, 0x01C, .rdId⟩, ⟨0x7FF, 0x41C, .wrId⟩, ⟨0x3E0, 0x020, .accUnmapped⟩, ⟨0x7C3, 0x040, .rdMsg⟩,
   ⟨0x7C3, 0x440, .wrMsg⟩, ⟨0x380, 0x080, .accUnmapped⟩, ⟨0x703, 0x100, .rdKrom⟩, ⟨0x703, 0x500, .wrKrom⟩,
   ⟨0x703, 0x200, .rdSrom⟩, ⟨0x703, 0x600, .wrSrom⟩, ⟨0x300, 0x300, .accUnmapped⟩]

/-- The key lies in the row. -/
def BusRow.matches (r : BusRow) (key : BitVec 11) : Bool := key &&& r.mask == r.pattern

/-- The access kind of a key: the first row of R55 that matches. Every key matches a row
(Laws/Decode.lean, `busRows_total`), so the last case never arises. -/
def busKind (key : BitVec 11) : BusKind :=
  match busRows.find? (fun r => r.matches key) with
  | some r => r.kind
  | none => .accUnmapped

/-- KEY = {WE, ADDR[9:0]} (R54). -/
def Access.key (a : Access) : BitVec 11 := BitVec.ofBool a.we ++ a.addr

/-- The index field n = ADDR[3:2] (R55). -/
def Access.stateIndex (a : Access) : BitVec 2 := a.addr.extractLsb' 2 2

/-- The index field j = ADDR[5:2] (R55). -/
def Access.msgIndex (a : Access) : BitVec 4 := a.addr.extractLsb' 2 4

/-- The index field i = ADDR[7:2] (R55). -/
def Access.romIndex (a : Access) : BitVec 6 := a.addr.extractLsb' 2 6

/-- The register interface's decoder: the access kind of the key, with the operands R55 and R64 give it. -/
def decodeBus (a : Access) : Instr :=
  match busKind a.key with
  | .accMisaligned => .accMisaligned a.we a.addr
  | .rdState => .rdState a.stateIndex
  | .wrState => .wrState a.stateIndex a.wdata a.wstrb
  | .rdCmd => .rdCmd
  | .wrCmd => .wrCmd a.wdata a.wstrb
  | .rdStatus => .rdStatus
  | .wrStatus => .wrStatus a.wdata a.wstrb
  | .rdCtrl => .rdCtrl
  | .wrCtrl => .wrCtrl a.wdata a.wstrb
  | .rdId => .rdId
  | .wrId => .wrId a.wdata a.wstrb
  | .accUnmapped => .accUnmapped a.we a.addr
  | .rdMsg => .rdMsg a.msgIndex
  | .wrMsg => .wrMsg a.msgIndex a.wdata a.wstrb
  | .rdKrom => .rdKrom a.romIndex
  | .wrKrom => .wrKrom a.romIndex a.wdata a.wstrb
  | .rdSrom => .rdSrom a.romIndex
  | .wrSrom => .wrSrom a.romIndex a.wdata a.wstrb

/-- The command decoder (R57, R59, R102): OP is bits [3:0] and MBZ bits [31:4]. -/
def decodeCmd (word : Word) (strobe : Strobe) : Instr :=
  if strobe ≠ 0b1111#4 ∨ word.extractLsb' 4 28 ≠ 0#28 ∨ 2 < (word.extractLsb' 0 4).toNat then .cmdIllegal word strobe
  else if word.extractLsb' 0 4 = 0#4 then .nop
  else if word.extractLsb' 0 4 = 1#4 then .compress
  else .ack

/-- The FN field (R61). -/
def decodeFn (fn : BitVec 2) : RoundFn :=
  if fn = 0#2 then .f else if fn = 1#2 then .g else if fn = 2#2 then .h else .i

/-- The fields of an SROM word: FN in [1:0], IDX in [11:8], S in [20:16]. The reserved bits are ignored
(R60, R65). -/
def sromFields (word : Word) : RoundEntry :=
  ⟨decodeFn (word.extractLsb' 0 2), word.extractLsb' 8 4, word.extractLsb' 16 5⟩

/-- The round micro-operation an SROM word selects (R61). -/
def decodeSrom (word : Word) : Instr :=
  match (sromFields word).fn with
  | .f => .roundF (sromFields word).idx (sromFields word).amount
  | .g => .roundG (sromFields word).idx (sromFields word).amount
  | .h => .roundH (sromFields word).idx (sromFields word).amount
  | .i => .roundI (sromFields word).idx (sromFields word).amount

/-- The sequencer's decoder of RC (R63). -/
def decodeSeq (rc : BitVec 7) : Except DecodeError Instr :=
  if rc.toNat < 64 then .ok (.seqRound (rc.extractLsb' 0 6))
  else if rc = 64#7 then .ok .seqFeedforward
  else .error .rcUnreachable

/-- The decoder of the four formats of R53. -/
def decode : Code → Except DecodeError Instr
  | .bus a => .ok (decodeBus a)
  | .cmd word strobe => .ok (decodeCmd word strobe)
  | .srom word => .ok (decodeSrom word)
  | .seq rc => decodeSeq rc

/-- A read of the offset; a read carries no data and no strobe (R54). -/
def readOf (addr : Offset) : Access := ⟨false, addr, 0, 0⟩

/-- A write to the offset (R54). -/
def writeOf (addr : Offset) (wdata : Word) (wstrb : Strobe) : Access := ⟨true, addr, wdata, wstrb⟩

/-- STATE[n] is at 4*n (R14). -/
def stateOffset (n : BitVec 2) : Offset := 0b000000#6 ++ n ++ 0b00#2

/-- MSG[j] is at 0x040 + 4*j (R14). -/
def msgOffset (j : BitVec 4) : Offset := 0b0001#4 ++ j ++ 0b00#2

/-- KROM[i] is at 0x100 + 4*i (R14). -/
def kromOffset (i : BitVec 6) : Offset := 0b01#2 ++ i ++ 0b00#2

/-- SROM[i] is at 0x200 + 4*i (R14). -/
def sromOffset (i : BitVec 6) : Offset := 0b10#2 ++ i ++ 0b00#2

/-- CMD (R14). -/
def cmdOffset : Offset := 0x010
/-- STATUS (R14). -/
def statusOffset : Offset := 0x014
/-- CTRL (R14). -/
def ctrlOffset : Offset := 0x018
/-- ID (R14). -/
def idOffset : Offset := 0x01C

/-- The SROM word of the fields: zext_32({S, 0b0000, IDX, 0b000000, FN}) (R60). -/
def packSrom (fn : BitVec 2) (idx : BitVec 4) (amount : BitVec 5) : Word :=
  0#11 ++ amount ++ 0b0000#4 ++ idx ++ 0b000000#6 ++ fn

/-- The code of an instruction, in its own format (R55, R58, R60, R63). -/
def encode : Instr → Code
  | .accMisaligned we addr => .bus ⟨we, addr, 0, 0⟩
  | .rdState n => .bus (readOf (stateOffset n))
  | .wrState n wdata wstrb => .bus (writeOf (stateOffset n) wdata wstrb)
  | .rdCmd => .bus (readOf cmdOffset)
  | .wrCmd wdata wstrb => .bus (writeOf cmdOffset wdata wstrb)
  | .rdStatus => .bus (readOf statusOffset)
  | .wrStatus wdata wstrb => .bus (writeOf statusOffset wdata wstrb)
  | .rdCtrl => .bus (readOf ctrlOffset)
  | .wrCtrl wdata wstrb => .bus (writeOf ctrlOffset wdata wstrb)
  | .rdId => .bus (readOf idOffset)
  | .wrId wdata wstrb => .bus (writeOf idOffset wdata wstrb)
  | .accUnmapped we addr => .bus ⟨we, addr, 0, 0⟩
  | .rdMsg j => .bus (readOf (msgOffset j))
  | .wrMsg j wdata wstrb => .bus (writeOf (msgOffset j) wdata wstrb)
  | .rdKrom i => .bus (readOf (kromOffset i))
  | .wrKrom i wdata wstrb => .bus (writeOf (kromOffset i) wdata wstrb)
  | .rdSrom i => .bus (readOf (sromOffset i))
  | .wrSrom i wdata wstrb => .bus (writeOf (sromOffset i) wdata wstrb)
  | .nop => .cmd 0 0b1111
  | .compress => .cmd 1 0b1111
  | .ack => .cmd 2 0b1111
  | .cmdIllegal word strobe => .cmd word strobe
  | .roundF idx amount => .srom (packSrom 0b00 idx amount)
  | .roundG idx amount => .srom (packSrom 0b01 idx amount)
  | .roundH idx amount => .srom (packSrom 0b10 idx amount)
  | .roundI idx amount => .srom (packSrom 0b11 idx amount)
  | .seqRound i => .seq (0#1 ++ i)
  | .seqFeedforward => .seq 64

/-- The code of a word of the opcode table, `nbits` wide in whole bytes (log entry 8). The table gives a word its bits
but not its format, so the width and then the value tell the formats apart: up to 8 bits the round counter, but for the
values 1, 2 and 3, the words of the table's first three rows, which read as bus keys; up to 16 bits a bus key (WDATA and
WSTRB are above the table's bits, hence 0); up to 32 bits a legal command word, else a word the schedule ROM holds, else a
command word, all written with the full strobe. -/
def tableCode (nbits w : Nat) : Option Code :=
  if nbits ≤ 8 then
    if w = 1 ∨ w = 2 ∨ w = 3 then some (.bus (readOf (BitVec.ofNat 10 w)))
    else if w < 128 then some (.seq (BitVec.ofNat 7 w))
    else none
  else if nbits ≤ 16 then
    if w < 2048 then some (.bus ⟨w.testBit 10, BitVec.ofNat 10 w, 0, 0⟩) else none
  else if nbits ≤ 32 ∧ w < 2 ^ 32 then
    if w ≤ 2 then some (.cmd (BitVec.ofNat 32 w) 0b1111)
    else if BitVec.ofNat 32 w ∈ Machine.sromTable then some (.srom (BitVec.ofNat 32 w))
    else some (.cmd (BitVec.ofNat 32 w) 0b1111)
  else none

/-- The instruction the decoder reads from a word of the opcode table (log entry 8). -/
def decodeTableWord (nbits w : Nat) : Option Instr :=
  match tableCode nbits w with
  | none => none
  | some c =>
    match decode c with
    | .ok i => some i
    | .error _ => none

end Sys2Proof
end

