-- ==== Sys2Proof/Config.lean ====
section
/-! DEFINITION. What is fixed for the cell: the parameters of R6 and R7, and the one free value of the model, the
working registers after a reset edge (R18, R29; log entry 4). BASE_ADDR and N_CELLS, which R7 leaves open and no rule
of the cell reads, are ARGUMENTS of the definitions in Machine/Platform.lean that mention them. -/

namespace Sys2Proof.Config

/-- WORD_BITS (R6). -/
def wordBits : Nat := 32
/-- STATE_WORDS (R6). -/
def stateWords : Nat := 4
/-- BLOCK_BYTES (R6). -/
def blockBytes : Nat := 64
/-- MSG_WORDS (R6). -/
def msgWords : Nat := 16
/-- ROUNDS, and SCHEDULE_ENTRIES (R6). -/
def rounds : Nat := 64
/-- STAGES, of 16 rounds each (R6). -/
def stages : Nat := 4
/-- BUS_DATA_BITS (R7). -/
def busDataBits : Nat := 32
/-- BUS_ADDR_BITS (R7). -/
def busAddrBits : Nat := 10
/-- BUS_STROBE_BITS (R7). -/
def busStrobeBits : Nat := 4
/-- COMPRESS_LATENCY: the sequencer steps of one compression, 64 rounds and the feed-forward (R7, R95). -/
def compressLatency : Nat := 65
/-- RC_BITS (R7). -/
def rcBits : Nat := 7
/-- The size in bytes of the register window (R14). -/
def windowBytes : Nat := 1024

/-- FREE VALUE (log entry 4). The words the working registers hold after a reset edge, which R29 leaves unspecified:
draw number n. It has no body, so no proof can say what it is. Several
cells draw from the one sequence (log entry 22). -/
opaque freeWord : Nat → Word

end Sys2Proof.Config
end

