-- ==== Sys2Proof/Machine/State.lean ====
section
/-! DEFINITION. The state of the cell (R13), of its bus, and of the host as the cell sees it, as plain data; the reasons
a step can stop; the state after reset (R29). ID, KROM and SROM, which R13 lists as constants, are in Machine/Rom.lean. -/

namespace Sys2Proof.Machine

/-- The four 32-bit working registers W.a, W.b, W.c and W.d (R18). -/
structure Working where
  a : Word
  b : Word
  c : Word
  d : Word
  deriving DecidableEq, Repr

/-- The names of the interface errors, codes 1 to 5 of R122. -/
inductive ErrCode where
  | illegalCmd | cmdWhileBusy | writeWhileBusy | badAccess | misaligned
  deriving DecidableEq, Repr

/-- The input ports in one clock cycle (R32): `rstN` is rst_n, `valid` is bus_valid, and `access` is bus_we, bus_addr,
bus_wdata and bus_wstrb, which mean something only while bus_valid is 1. -/
structure Pins where
  rstN   : Bool
  valid  : Bool
  access : Access
  deriving DecidableEq, Repr

/-- What happens next, as the two agents of R11 are scheduled: a host step, which presents one access; a sequencer step;
or one rising clock edge with the ports as they stand, in which an access and a sequencer step can fall together (R142)
or rst_n is 0 (R137). -/
inductive Stimulus where
  | host (a : Access)
  | sequencer
  | clock (p : Pins)
  deriving DecidableEq, Repr

/-- The state of the machine. The fields `chain` to `rc` are the cell's state as R13 lists it; `rdata`, `inputs` and
`draws` are the model's own (log entries 1, 2 and 4). -/
structure State where
  /-- STATE[0..3], the chaining state A, B, C, D (R15). -/
  chain   : Vector Word 4
  /-- MSG[0..15], the block buffer (R17). -/
  msg     : Vector Word 16
  /-- CTRL.DIE, the done-interrupt enable (R23). -/
  die     : Bool
  /-- CTRL.EIE, the error-interrupt enable (R23). -/
  eie     : Bool
  /-- STATUS.BUSY (R22). -/
  busy    : Bool
  /-- STATUS.DONE (R22). -/
  done    : Bool
  /-- STATUS.ERRCODE, the first error since the last ACK or reset (R22, R122). -/
  errcode : BitVec 4
  /-- STATUS.ERROVF (R22). -/
  errovf  : Bool
  /-- STATUS.ERRADDR, the offset of the access that set ERRCODE (R22). -/
  erraddr : Offset
  /-- W.a to W.d, hidden (R18). -/
  working : Working
  /-- RC, the hidden 7-bit round counter and the cell's only program counter (R20). -/
  rc      : BitVec 7
  /-- MODEL'S OWN (log entry 2): the word the host's most recent read returned, sampled from bus_rdata. -/
  rdata   : Word
  /-- MODEL'S OWN (log entry 1): the schedule of what happens next, first first. The host's coming accesses are in it,
  as is the interleaving. Where it is empty the sequencer has every step. -/
  inputs  : List Stimulus
  /-- MODEL'S OWN (log entry 4): how many free values have been drawn. -/
  draws   : Nat
  deriving DecidableEq, Repr

/-- The reasons the machine can stop. -/
inductive Fault where
  /-- Raised by the sequencer's step in Machine/Agents.lean, while BUSY = 1 and RC is 65 to 127: no step is enabled (R63;
  93_implementation_defined.md item I-RC, "stuck"). SAFE: no run of the cell reaches it, and a run that did would be given
  no completion (log entry 6). -/
  | sequencerStuck
  deriving DecidableEq, Repr

/-- The reasons a step can be refused. -/
inductive Refusal where
  /-- Raised by exec's arm for an instruction without a meaning; no arm of this model raises it. SAFE: nothing is claimed
  of the instruction. -/
  | notModelled (mnemonic : String)
  deriving DecidableEq, Repr

/-- What one step answers. -/
abbrev Result := Host.Outcome State Fault Refusal

/-- The machine right after reset (R29): STATE, MSG, CTRL, STATUS and RC are 0. W, which R29 leaves unspecified, is 0 by
log entry 3; `rdata` and `draws` are 0 and `inputs` is empty by log entries 1, 2 and 4. -/
def State.reset : State where
  chain   := Vector.replicate 4 0
  msg     := Vector.replicate 16 0
  die     := false
  eie     := false
  busy    := false
  done    := false
  errcode := 0
  errovf  := false
  erraddr := 0
  working := ⟨0, 0, 0, 0⟩
  rc      := 0
  rdata   := 0
  inputs  := []
  draws   := 0

end Sys2Proof.Machine
end

