-- ==== Sys2Proof/Machine/Flags.lean ====
section
/-! DEFINITION. The words software reads of the status and control fields, and the interrupt output. The datapath has no
flag of its own (R27). -/

namespace Sys2Proof.Machine

/-- The STATUS word: {6'b0, ERRADDR, 7'b0, ERROVF, ERRCODE, 2'b00, DONE, BUSY} (R22, R111). -/
def State.statusWord (s : State) : Word :=
  0#6 ++ s.erraddr ++ 0#7 ++ BitVec.ofBool s.errovf ++ s.errcode ++ 0#2 ++ BitVec.ofBool s.done ++ BitVec.ofBool s.busy

/-- The CTRL word: zext_32({EIE, DIE}) (R23, R112). -/
def State.ctrlWord (s : State) : Word := 0#30 ++ BitVec.ofBool s.eie ++ BitVec.ofBool s.die

/-- The irq output, a level: (DIE & DONE) | (EIE & (ERRCODE != 0)) (R126). -/
def State.irq (s : State) : Bool := (s.die && s.done) || (s.eie && s.errcode != 0#4)

end Sys2Proof.Machine
end

