-- ==== Sys2Proof/Machine/Operands.lean ====
section
/-! DEFINITION. The operand forms of the cell: a register word by its index field, the byte lanes of a write (R36), the
bytes of the block (R37), and the words of STATE as working registers (R91). -/

namespace Sys2Proof.Machine

/-- STATE[n] (R106). -/
def State.chainWord (s : State) (n : BitVec 2) : Word := s.chain[n.toNat]'n.isLt

/-- MSG[j] (R108). -/
def State.msgWord (s : State) (j : BitVec 4) : Word := s.msg[j.toNat]'j.isLt

/-- Byte lane k of a word, bits [8k+7:8k] (R36). -/
def lane (w : Word) (k : Nat) : Byte := w.extractLsb' (8 * k) 8

/-- The byte lane k of a write: the data's where the strobe enables the lane, else the register's (R36). -/
def mergeLane (old wdata : Word) (wstrb : Strobe) (k : Nat) : Byte :=
  if wstrb.getLsbD k then lane wdata k else lane old k

/-- The register's new value under a write (R36). -/
def mergeLanes (old wdata : Word) (wstrb : Strobe) : Word :=
  mergeLane old wdata wstrb 3 ++ mergeLane old wdata wstrb 2 ++ mergeLane old wdata wstrb 1 ++ mergeLane old wdata wstrb 0

/-- Byte n of the block: byte lane n mod 4 of MSG[n div 4] (R17, R37). -/
def State.blockByte (s : State) (n : BitVec 6) : Byte :=
  lane (s.msgWord (n.extractLsb' 2 4)) (n.extractLsb' 0 2).toNat

/-- The word of MSG whose four block bytes are given, `b0` the lowest-numbered: {b3, b2, b1, b0} (R37). -/
def blockWord (b0 b1 b2 b3 : Byte) : Word := b3 ++ b2 ++ b1 ++ b0

/-- The working registers taken from the four words of a chaining state: W.a from A, W.b from B, W.c from C and W.d from
D (R91). -/
def workingOf (chain : Vector Word 4) : Working := ⟨chain[0], chain[1], chain[2], chain[3]⟩

/-- Each working register added into its state word, modulo 2^32 (R94). -/
def addWorking (chain : Vector Word 4) (w : Working) : Vector Word 4 :=
  #v[chain[0] + w.a, chain[1] + w.b, chain[2] + w.c, chain[3] + w.d]

end Sys2Proof.Machine
end

