-- ==== Sys2Proof/Machine/Ops.lean ====
section
/-! DEFINITION. The named updates of the state, the recording of an interface error (this cell's only exception, R123,
R128), its acknowledgement (R105, R129), the accept of a COMPRESS (R104), and the reset edge (R137). -/

namespace Sys2Proof.Machine

/-- STATE[0..3] takes the four words. -/
def State.setChain (s : State) (v : Vector Word 4) : State := { s with chain := v }
/-- MSG[0..15] takes the sixteen words. -/
def State.setMsg (s : State) (v : Vector Word 16) : State := { s with msg := v }
/-- CTRL takes the two enables. -/
def State.setCtrl (s : State) (die eie : Bool) : State := { s with die := die, eie := eie }
/-- STATUS.BUSY and STATUS.DONE take the two bits. -/
def State.setRun (s : State) (busy done : Bool) : State := { s with busy := busy, done := done }
/-- STATUS.ERRCODE, ERROVF and ERRADDR take the three fields. -/
def State.setError (s : State) (code : BitVec 4) (ovf : Bool) (addr : Offset) : State :=
  { s with errcode := code, errovf := ovf, erraddr := addr }
/-- W takes the four words. -/
def State.setWorking (s : State) (w : Working) : State := { s with working := w }
/-- RC takes the value. -/
def State.setRc (s : State) (rc : BitVec 7) : State := { s with rc := rc }
/-- The host has read the word. -/
def State.setRdata (s : State) (v : Word) : State := { s with rdata := v }
/-- The schedule that is left. -/
def State.setInputs (s : State) (l : List Stimulus) : State := { s with inputs := l }
/-- The number of free values drawn. -/
def State.setDraws (s : State) (n : Nat) : State := { s with draws := n }

/-- STATE[n] takes the word. -/
def State.setChainWord (s : State) (n : BitVec 2) (v : Word) : State := s.setChain (s.chain.set n.toNat v n.isLt)

/-- MSG[j] takes the word. -/
def State.setMsgWord (s : State) (j : BitVec 4) (v : Word) : State := s.setMsg (s.msg.set j.toNat v j.isLt)

/-- The code of an interface error (R122). -/
def ErrCode.code : ErrCode → BitVec 4
  | .illegalCmd => 1
  | .cmdWhileBusy => 2
  | .writeWhileBusy => 3
  | .badAccess => 4
  | .misaligned => 5

/-- `raise Error(code, addr)` (R123): the first error since the last ACK or reset is recorded with its offset; a later
one only sets ERROVF. Nothing else changes, and no control is transferred (R10, R128). -/
def raiseError (e : ErrCode) (addr : Offset) (s : State) : State :=
  if s.errcode = 0#4 then s.setError e.code s.errovf addr
  else s.setError s.errcode true s.erraddr

/-- A rejected access: the error is recorded, and a read returns 0x00000000 (R33, R34, R123). -/
def rejectAccess (e : ErrCode) (we : Bool) (addr : Offset) (s : State) : State :=
  if we then raiseError e addr s else (raiseError e addr s).setRdata 0

/-- The acknowledgement of completion and errors (R105): DONE and the error fields are cleared. -/
def acknowledge (s : State) : State := (s.setRun s.busy false).setError 0 false 0

/-- The accept of a COMPRESS (R91, R104): W is loaded from STATE, RC is 0, BUSY is 1 and DONE is 0. -/
def accept (s : State) : State := ((s.setWorking (workingOf s.chain)).setRc 0).setRun true false

/-- A COMPRESS command: accepted while BUSY = 0, else rejected with CMD_WHILE_BUSY (R104). -/
def startCompress (s : State) : State :=
  if s.busy then raiseError .cmdWhileBusy cmdOffset s else accept s

/-- A write to STATE or MSG is guarded alike (R34, R107, R109): a zero strobe does nothing, BUSY = 1 is
WRITE_WHILE_BUSY at the offset, and otherwise the register is written. -/
def guardedWrite (wstrb : Strobe) (addr : Offset) (write : State → State) (s : State) : State :=
  if wstrb = 0#4 then s
  else if s.busy then raiseError .writeWhileBusy addr s
  else write s

/-- The four words the working registers hold after a reset edge: free values (R29; log entry 4). DESIGN CHOICE (log
entry 22): the cells of a `Platform` draw from this one sequence, each by its own counter. -/
def drawWorking (n : Nat) : Working :=
  ⟨Config.freeWord n, Config.freeWord (n + 1), Config.freeWord (n + 2), Config.freeWord (n + 3)⟩

/-- A rising edge with rst_n = 0 (R137): every element of the cell's state takes its value of R29, W a free one; the
access presented, if any, has no effect, and if it is a read it returns 0x00000000. -/
def resetEdge (p : Pins) (s : State) : State where
  chain   := Vector.replicate 4 0
  msg     := Vector.replicate 16 0
  die     := false
  eie     := false
  busy    := false
  done    := false
  errcode := 0
  errovf  := false
  erraddr := 0
  working := drawWorking s.draws
  rc      := 0
  rdata   := if p.valid && !p.access.we then 0 else s.rdata
  inputs  := s.inputs
  draws   := s.draws + 4

end Sys2Proof.Machine
end

