-- ==== Sys2Proof/Machine/Commands.lean ====
section
/-! DEFINITION. The commands, and the command write that carries them (R59, R102 to R105). -/

namespace Sys2Proof.Machine

/-- NOP: nothing changes, BUSY or not (R103). -/
def execNop (s : State) : Result := .next s

/-- COMPRESS (R104). -/
def execCompress (s : State) : Result := .next (startCompress s)

/-- ACK (R105). -/
def execAck (s : State) : Result := .next (acknowledge s)

/-- An illegal command write is rejected with ILLEGAL_CMD at 0x010, before BUSY is looked at (R59, R102). -/
def rejectCommand (s : State) : State := raiseError .illegalCmd cmdOffset s

/-- CMD.ILLEGAL (R59). -/
def execCmdIllegal (_word : Word) (_strobe : Strobe) (s : State) : Result := .next (rejectCommand s)

/-- WR.CMD: the command word is decoded and executed, or rejected (R102). -/
def execWrCmd (wdata : Word) (wstrb : Strobe) (s : State) : Result :=
  if wstrb ≠ 0b1111#4 ∨ wdata.extractLsb' 4 28 ≠ 0#28 ∨ 2 < (wdata.extractLsb' 0 4).toNat then .next (rejectCommand s)
  else if wdata.extractLsb' 0 4 = 0#4 then .next s
  else if wdata.extractLsb' 0 4 = 1#4 then .next (startCompress s)
  else .next (acknowledge s)

end Sys2Proof.Machine
end

