-- ==== Sys2Proof/Machine/Reads.lean ====
section
/-! DEFINITION. The read accesses of mapped offsets: each returns a word and changes nothing of the cell
(R43, R106, R108, R110 to R112, R114 to R116). -/

namespace Sys2Proof.Machine

/-- A read that returns the word to the host. -/
def readReturns (v : Word) (s : State) : Result := .next (s.setRdata v)

/-- RD.STATE (R106). -/
def execRdState (n : BitVec 2) (s : State) : Result := readReturns (s.chainWord n) s

/-- RD.MSG (R108). -/
def execRdMsg (j : BitVec 4) (s : State) : Result := readReturns (s.msgWord j) s

/-- RD.CMD: CMD holds no value and reads 0 (R24, R110). -/
def execRdCmd (s : State) : Result := readReturns 0 s

/-- RD.STATUS: reading clears nothing (R111). -/
def execRdStatus (s : State) : Result := readReturns s.statusWord s

/-- RD.CTRL (R112). -/
def execRdCtrl (s : State) : Result := readReturns s.ctrlWord s

/-- RD.ID (R114). -/
def execRdId (s : State) : Result := readReturns idValue s

/-- RD.KROM (R115). -/
def execRdKrom (i : BitVec 6) (s : State) : Result := readReturns (krom i) s

/-- RD.SROM (R116). -/
def execRdSrom (i : BitVec 6) (s : State) : Result := readReturns (srom i) s

end Sys2Proof.Machine
end

