-- ==== Sys2Proof/Machine/Rejected.lean ====
section
/-! DEFINITION. The accesses no register takes: misaligned (R119) and unmapped (R118). -/

namespace Sys2Proof.Machine

/-- ACC.MISALIGNED: MISALIGNED at the full offset; a read returns 0 (R40, R119). -/
def execAccMisaligned (we : Bool) (addr : Offset) (s : State) : Result := .next (rejectAccess .misaligned we addr s)

/-- ACC.UNMAPPED: BAD_ACCESS at the offset; a read returns 0 (R35, R118). -/
def execAccUnmapped (we : Bool) (addr : Offset) (s : State) : Result := .next (rejectAccess .badAccess we addr s)

end Sys2Proof.Machine
end

