-- ==== Sys2Proof/Machine/RoundFns.lean ====
section
/-! DEFINITION. The round datapath: the four nonlinear functions (R78 to R81), the left rotation (R9), the round step
(R83) and the pure compression function `compress` with its fold over a sequence of blocks (R97, R99). -/

namespace Sys2Proof.Machine

/-- F, per bit `x ? y : z` (R78). -/
def roundFnF (x y z : Word) : Word := (x &&& y) ||| (~~~x &&& z)

/-- G, per bit `z ? x : y` (R79; 90_conflicts.md C1: not the majority function). -/
def roundFnG (x y z : Word) : Word := (x &&& z) ||| (y &&& ~~~z)

/-- H, the parity (R80), formed anew every round (90_conflicts.md C2). -/
def roundFnH (x y z : Word) : Word := x ^^^ y ^^^ z

/-- I (R81). -/
def roundFnI (x y z : Word) : Word := y ^^^ (x ||| ~~~z)

/-- FUNC(FN): the function an FN field selects (R61, R97). -/
def roundFn : RoundFn → Word → Word → Word → Word
  | .f => roundFnF
  | .g => roundFnG
  | .h => roundFnH
  | .i => roundFnI

/-- ROTL32(x, s), and x where s is 0 (R9). -/
def rotl32 (x : Word) (s : Nat) : Word := (x <<< s) ||| (x >>> (32 - s))

/-- The round step (R83): from the working registers, the message word, the constant and the rotation amount. -/
def roundStep (fn : RoundFn) (w : Working) (m k : Word) (amount : BitVec 5) : Working :=
  let t := w.a + roundFn fn w.b w.c w.d + m + k
  ⟨w.d, w.b + rotl32 t amount.toNat, w.b, w.c⟩

/-- FN[i], IDX[i] and S[i] (R70). -/
def schedule (i : BitVec 6) : RoundEntry := sromFields (srom i)

/-- Round i on the working registers, with the block's words (R83, R97). -/
def roundAt (i : BitVec 6) (msg : Vector Word 16) (w : Working) : Working :=
  roundStep (schedule i).fn w (msg[(schedule i).idx.toNat]'(schedule i).idx.isLt) (krom i) (schedule i).amount

/-- The working registers after rounds 0 to n-1 of a block (R97's loop). -/
def roundsFrom (w : Working) (msg : Vector Word 16) : Nat → Working
  | 0 => w
  | n + 1 => roundAt (BitVec.ofNat 6 n) msg (roundsFrom w msg n)

/-- Compress, the compression function (R97). -/
def compress (chain : Vector Word 4) (msg : Vector Word 16) : Vector Word 4 :=
  addWorking chain (roundsFrom (workingOf chain) msg Config.rounds)

/-- CompressSeq: the blocks in order, each from the state the one before it left (R99, R100). -/
def compressSeq (chain : Vector Word 4) : List (Vector Word 16) → Vector Word 4
  | [] => chain
  | msg :: rest => compressSeq (compress chain msg) rest

end Sys2Proof.Machine
end

