-- ==== Sys2Proof/Machine/Rounds.lean ====
section
/-! DEFINITION. The round micro-operations and the sequencer's two steps (R83, R86 to R89, R93, R94). -/

namespace Sys2Proof.Machine

/-- RC[5:0], the round index (R63). -/
def State.roundIndex (s : State) : BitVec 6 := s.rc.extractLsb' 0 6

/-- A round micro-operation (R83): the operands an SROM word gives, and K of the same round. It writes W alone. -/
def runRound (fn : RoundFn) (idx : BitVec 4) (amount : BitVec 5) (k : Word) (s : State) : State :=
  s.setWorking (roundStep fn s.working (s.msgWord idx) k amount)

/-- ROUND.F (R86). -/
def execRoundF (idx : BitVec 4) (amount : BitVec 5) (s : State) : Result :=
  .next (runRound .f idx amount (krom s.roundIndex) s)

/-- ROUND.G (R87). -/
def execRoundG (idx : BitVec 4) (amount : BitVec 5) (s : State) : Result :=
  .next (runRound .g idx amount (krom s.roundIndex) s)

/-- ROUND.H (R88). -/
def execRoundH (idx : BitVec 4) (amount : BitVec 5) (s : State) : Result :=
  .next (runRound .h idx amount (krom s.roundIndex) s)

/-- ROUND.I (R89). -/
def execRoundI (idx : BitVec 4) (amount : BitVec 5) (s : State) : Result :=
  .next (runRound .i idx amount (krom s.roundIndex) s)

/-- SEQ.ROUND (R93): round i, the micro-operation SROM[i] selects, and then RC <- RC + 1. The sequencer has no step while
BUSY = 0 (R92), and then nothing changes (log entry 10). -/
def execSeqRound (i : BitVec 6) (s : State) : Result :=
  if s.busy then
    .next ((runRound (schedule i).fn (schedule i).idx (schedule i).amount (krom i) s).setRc (s.rc + 1))
  else .next s

/-- SEQ.FEEDFORWARD (R94): W is added into STATE, all four words at once, BUSY is 0, DONE is 1 and RC is 0. While BUSY = 0
nothing changes (R92; log entry 10). DESIGN CHOICE (log entry 21): RC is not looked at here, so with BUSY = 1 the meaning is
the same at every RC, where R94 gives one at RC = 64 alone, the RC at which the sequencer decodes this step (R63). -/
def execSeqFeedforward (s : State) : Result :=
  if s.busy then .next (((s.setChain (addWorking s.chain s.working)).setRun false true).setRc 0)
  else .next s

end Sys2Proof.Machine
end

