-- ==== Sys2Proof/Machine/Writes.lean ====
section
/-! DEFINITION. The write accesses of STATE, MSG and CTRL, and the writes to read-only registers
(R107, R109, R113, R117). WR.CMD is in Machine/Commands.lean. -/

namespace Sys2Proof.Machine

/-- WR.STATE (R107). -/
def execWrState (n : BitVec 2) (wdata : Word) (wstrb : Strobe) (s : State) : Result :=
  .next (guardedWrite wstrb (stateOffset n) (fun t => t.setChainWord n (mergeLanes (t.chainWord n) wdata wstrb)) s)

/-- WR.MSG (R109). -/
def execWrMsg (j : BitVec 4) (wdata : Word) (wstrb : Strobe) (s : State) : Result :=
  .next (guardedWrite wstrb (msgOffset j) (fun t => t.setMsgWord j (mergeLanes (t.msgWord j) wdata wstrb)) s)

/-- WR.CTRL: DIE and EIE take bits 0 and 1 where lane 0 is enabled; every other bit and lane is ignored (R23, R113). -/
def execWrCtrl (wdata : Word) (wstrb : Strobe) (s : State) : Result :=
  .next (if wstrb.getLsbD 0 then s.setCtrl (wdata.getLsbD 0) (wdata.getLsbD 1) else s)

/-- A write to a read-only register is BAD_ACCESS at its offset, whatever the data and the strobe (R117). -/
def rejectReadOnly (addr : Offset) (s : State) : Result := .next (rejectAccess .badAccess true addr s)

/-- WR.STATUS (R117). -/
def execWrStatus (_wdata : Word) (_wstrb : Strobe) (s : State) : Result := rejectReadOnly statusOffset s

/-- WR.ID (R117). -/
def execWrId (_wdata : Word) (_wstrb : Strobe) (s : State) : Result := rejectReadOnly idOffset s

/-- WR.KROM (R117). -/
def execWrKrom (i : BitVec 6) (_wdata : Word) (_wstrb : Strobe) (s : State) : Result := rejectReadOnly (kromOffset i) s

/-- WR.SROM (R117). -/
def execWrSrom (i : BitVec 6) (_wdata : Word) (_wstrb : Strobe) (s : State) : Result := rejectReadOnly (sromOffset i) s

end Sys2Proof.Machine
end

