-- ==== Sys2Proof/Machine/Dispatch.lean ====
section
/-! DEFINITION. The meaning of every instruction: one arm per constructor of `Instr`, each one call of its meaning. Operands
the spec calls "ignored" (R117) are passed on, and the meaning ignores them. -/

namespace Sys2Proof.Machine

def exec (i : Instr) (s : State) : Host.Outcome State Fault Refusal :=
  match i with
  | .accMisaligned we addr => Sys2Proof.Machine.execAccMisaligned we addr s
  | .rdState n => Sys2Proof.Machine.execRdState n s
  | .wrState n wdata wstrb => Sys2Proof.Machine.execWrState n wdata wstrb s
  | .rdCmd => Sys2Proof.Machine.execRdCmd s
  | .wrCmd wdata wstrb => Sys2Proof.Machine.execWrCmd wdata wstrb s
  | .rdStatus => Sys2Proof.Machine.execRdStatus s
  | .wrStatus wdata wstrb => Sys2Proof.Machine.execWrStatus wdata wstrb s
  | .rdCtrl => Sys2Proof.Machine.execRdCtrl s
  | .wrCtrl wdata wstrb => Sys2Proof.Machine.execWrCtrl wdata wstrb s
  | .rdId => Sys2Proof.Machine.execRdId s
  | .wrId wdata wstrb => Sys2Proof.Machine.execWrId wdata wstrb s
  | .accUnmapped we addr => Sys2Proof.Machine.execAccUnmapped we addr s
  | .rdMsg j => Sys2Proof.Machine.execRdMsg j s
  | .wrMsg j wdata wstrb => Sys2Proof.Machine.execWrMsg j wdata wstrb s
  | .rdKrom n => Sys2Proof.Machine.execRdKrom n s
  | .wrKrom n wdata wstrb => Sys2Proof.Machine.execWrKrom n wdata wstrb s
  | .rdSrom n => Sys2Proof.Machine.execRdSrom n s
  | .wrSrom n wdata wstrb => Sys2Proof.Machine.execWrSrom n wdata wstrb s
  | .nop => Sys2Proof.Machine.execNop s
  | .compress => Sys2Proof.Machine.execCompress s
  | .ack => Sys2Proof.Machine.execAck s
  | .cmdIllegal word strobe => Sys2Proof.Machine.execCmdIllegal word strobe s
  | .roundF idx amount => Sys2Proof.Machine.execRoundF idx amount s
  | .roundG idx amount => Sys2Proof.Machine.execRoundG idx amount s
  | .roundH idx amount => Sys2Proof.Machine.execRoundH idx amount s
  | .roundI idx amount => Sys2Proof.Machine.execRoundI idx amount s
  | .seqRound n => Sys2Proof.Machine.execSeqRound n s
  | .seqFeedforward => Sys2Proof.Machine.execSeqFeedforward s

end Sys2Proof.Machine
end

