-- ==== Sys2Proof/Machine/Agents.lean ====
section
/-! DEFINITION. The steps of the two agents (R11), the clock edge in which they can fall together (R142) or the cell is
reset (R137), and the placing of an instruction where the next step takes it. -/

namespace Sys2Proof.Machine

/-- A host step: the access is decoded and executed (R11, R31). -/
def hostStep (a : Access) (s : State) : Result := exec (decodeBus a) s

/-- A sequencer step (R63, R92): enabled if and only if BUSY = 1. RC says which step it is, and while RC is 65 to 127 there
is none (log entry 6). While BUSY = 0 nothing changes. -/
def sequencerStep (s : State) : Result :=
  if s.busy then
    match decodeSeq s.rc with
    | .ok i => exec i s
    | .error _ => .fault .sequencerStuck
  else .next s

/-- The second step, from the state the first one leaves. -/
def andThen (r : Result) (f : State → Result) : Result :=
  match r with
  | .next s => f s
  | .fault e => .fault e
  | .refused e => .refused e

/-- One rising clock edge. With rst_n = 0 it is a reset edge (R137). Else the access, if one is presented, is evaluated
against the state before the edge, and then the sequencer steps if BUSY was 1 before the edge (R142; log entry 7). -/
def clockEdge (p : Pins) (s : State) : Result :=
  if p.rstN then
    andThen (if p.valid then hostStep p.access s else .next s)
      (fun t => if s.busy then sequencerStep t else .next t)
  else .next (resetEdge p s)

/-- The code the next step fetches, where that step runs one instruction: the access of a host step, or the round counter
of an enabled sequencer step, which has every step while the schedule is empty (R11, R63). -/
def State.fetch (s : State) : Option Code :=
  match s.inputs with
  | .host a :: _ => some (.bus a)
  | .sequencer :: _ => if s.busy then some (.seq s.rc) else none
  | .clock _ :: _ => none
  | [] => if s.busy then some (.seq s.rc) else none

/-- The code placed where the next step fetches it (log entry 8): an access is the host's next one; a command is written to
CMD; a word of the schedule ROM is the round the sequencer is at; a round counter is RC. -/
def placeCode (c : Code) (s : State) : State :=
  match c with
  | .bus a => s.setInputs (.host a :: s.inputs)
  | .cmd word strobe => s.setInputs (.host (writeOf cmdOffset word strobe) :: s.inputs)
  | .srom word =>
    match sromIndex word with
    | some i => ((s.setRun true s.done).setRc (0#1 ++ i)).setInputs (.sequencer :: s.inputs)
    | none => s
  | .seq rc => ((s.setRun true s.done).setRc rc).setInputs (.sequencer :: s.inputs)

end Sys2Proof.Machine
end

