-- ==== Sys2Proof/Machine/Step.lean ====
section
/-! DEFINITION. One step of the machine: the schedule says which agent has it (R11, log entry 1). -/

namespace Sys2Proof.Machine

/-- One step. The first stimulus of the schedule is taken off and acted on; an empty schedule leaves the step to the
sequencer, which makes it weakly fair (R11, R145). -/
def step (s : State) : Host.Outcome State Fault Refusal :=
  match s.inputs with
  | .host a :: rest => hostStep a (s.setInputs rest)
  | .sequencer :: rest => sequencerStep (s.setInputs rest)
  | .clock p :: rest => clockEdge p (s.setInputs rest)
  | [] => sequencerStep s

/-- The state with the instruction of a table word placed where `step` takes it next (log entry 8). -/
def State.withFetchWord (s : State) (nbits w : Nat) : State :=
  match tableCode nbits w with
  | some c => placeCode c s
  | none => s

end Sys2Proof.Machine
end

