-- ==== Sys2Proof/Machine/Script.lean ====
section
/-! DEFINITION. The host script of R67 and R68, its expansion, its encoding as access records (R69), and the host procedure
of R120. They are the host's notation: the cell sees only the accesses. Machine/HostRun.lean carries a script out, its waits
and its `expect` lines acting on the words read. -/

namespace Sys2Proof.Machine

/-- A `<loc>` of a script line (R67). -/
inductive Loc where
  | at (offset : Offset)
  | state (n : BitVec 2)
  | msg (j : BitVec 4)
  | cmd | status | ctrl | id
  | krom (i : BitVec 6)
  | srom (i : BitVec 6)
  deriving DecidableEq, Repr

/-- The offset a location stands for (R14, R67). -/
def locOffset : Loc → Offset
  | .at offset => offset
  | .state n => stateOffset n
  | .msg j => msgOffset j
  | .cmd => cmdOffset
  | .status => statusOffset
  | .ctrl => ctrlOffset
  | .id => idOffset
  | .krom i => kromOffset i
  | .srom i => sromOffset i

/-- The commands a script names (R68). -/
inductive Command where
  | nop | compress | ack
  deriving DecidableEq, Repr

/-- The command word (R57, R58). -/
def commandWord : Command → Word
  | .nop => 0
  | .compress => 1
  | .ack => 2

/-- The 64 bytes of a block, byte 0 first. -/
abbrev BlockBytes := Vector Byte 64

/-- A line of a host script, base line or pseudo-instruction (R67, R68). -/
inductive Line where
  | rd (loc : Loc)
  | wr (loc : Loc) (imm : Word)
  | wrs (loc : Loc) (imm : Word) (strobe : Strobe)
  | cmd (c : Command)
  | wrb (n : BitVec 6) (imm : Byte)
  | ldstate (a b c d : Word)
  | ldblock (block : BlockBytes)
  | wait
  | rdstate
  | expect (loc : Loc) (imm : Word)
  | compressBlocks (blocks : List BlockBytes)
  deriving DecidableEq, Repr

/-- A full-word write (R67's `wr`). -/
def fullWrite (addr : Offset) (v : Word) : Access := writeOf addr v 0b1111

/-- MSG[0..15] of a block: {b[4j+3], b[4j+2], b[4j+1], b[4j]} (R37). -/
def parseBlock (b : BlockBytes) : Vector Word 16 :=
  Vector.ofFn (fun j : Fin 16 => blockWord (b[4 * j.val]) (b[4 * j.val + 1]) (b[4 * j.val + 2]) (b[4 * j.val + 3]))

/-- The sixteen writes that load the words of a block into MSG (R68's `ldblock`). -/
def loadBlock (msg : Vector Word 16) : List Access :=
  (List.finRange 16).map (fun j => fullWrite (msgOffset (BitVec.ofNat 4 j.val)) msg[j])

/-- The four writes that load STATE (R68's `ldstate`). -/
def loadState (a b c d : Word) : List Access :=
  [fullWrite (stateOffset 0) a, fullWrite (stateOffset 1) b, fullWrite (stateOffset 2) c, fullWrite (stateOffset 3) d]

/-- The four reads of STATE (R68's `rdstate`). -/
def readState : List Access :=
  [readOf (stateOffset 0), readOf (stateOffset 1), readOf (stateOffset 2), readOf (stateOffset 3)]

/-- What a script comes down to: single accesses, and the two forms of host control flow of R68, with the second way to
wait that R120 and R141 give. -/
inductive HostOp where
  /-- One access (R67). -/
  | access (a : Access)
  /-- `wait`: STATUS is read, again while bit 0 of the word read is 1 (R68). -/
  | wait
  /-- The wait for irq (R120, R141): once irq is 1, STATUS is read, and the wait ends where the word shows DONE = 1. -/
  | awaitIrq
  /-- `expect`: the offset is read, and the script stops with failure unless the word read is `imm` (R68). -/
  | expect (addr : Offset) (imm : Word)
  deriving DecidableEq, Repr

/-- `ldblock`, `cmd COMPRESS` and the wait for the compression's end (R68, R120). -/
def blockOps (waiting : HostOp) (b : BlockBytes) : List HostOp :=
  (loadBlock (parseBlock b)).map .access ++ [.access (fullWrite cmdOffset (commandWord .compress)), waiting]

/-- The expansion of a line (R67, R68). -/
def lineOps : Line → List HostOp
  | .rd loc => [.access (readOf (locOffset loc))]
  | .wr loc imm => [.access (fullWrite (locOffset loc) imm)]
  | .wrs loc imm strobe => [.access (writeOf (locOffset loc) imm strobe)]
  | .cmd c => [.access (fullWrite cmdOffset (commandWord c))]
  | .wrb k imm =>
    [.access
      (writeOf (msgOffset (k.extractLsb' 2 4)) (imm.setWidth 32 <<< (8 * (k.toNat % 4))) (1#4 <<< (k.toNat % 4)))]
  | .ldstate a b c d => (loadState a b c d).map .access
  | .ldblock b => (loadBlock (parseBlock b)).map .access
  | .wait => [.wait]
  | .rdstate => readState.map .access
  | .expect loc imm => [.expect (locOffset loc) imm]
  | .compressBlocks blocks => blocks.flatMap (blockOps .wait)

/-- The expansion of a script. -/
def scriptOps (script : List Line) : List HostOp := script.flatMap lineOps

/-- The accesses of an expansion. DESIGN CHOICE (log entry 18): how often a wait reads STATUS is known only from a run, so
each wait, in order, takes a number of its own from `repeats`, its reads after the first; a wait that the list does not
reach reads once, as the listings of 95_test_vectors.md count it. Every run that finishes presents such a list
(Laws/Script.lean, `finishedRun_issued`). -/
def opsAccesses (repeats : List Nat) : List HostOp → List Access
  | [] => []
  | .access a :: rest => a :: opsAccesses repeats rest
  | .expect addr _ :: rest => readOf addr :: opsAccesses repeats rest
  | .wait :: rest | .awaitIrq :: rest =>
    List.replicate (repeats.headD 0 + 1) (readOf statusOffset) ++ opsAccesses repeats.tail rest

/-- The accesses of a script (R69), its waits of the lengths given (log entry 18). -/
def scriptAccesses (repeats : List Nat) (script : List Line) : List Access := opsAccesses repeats (scriptOps script)

/-- An access record of a listing: `R <addr>` or `W <addr> <wdata> <strb>` (R69). -/
inductive Listed where
  | r (addr : Offset)
  | w (addr : Offset) (wdata : Word) (strobe : Strobe)
  deriving DecidableEq, Repr

/-- The listing of an access (R69). -/
def listAccess (a : Access) : Listed := if a.we then .w a.addr a.wdata a.wstrb else .r a.addr

/-- The encoding of a script: the listing of its accesses (R69; log entry 18). -/
def encodeScript (repeats : List Nat) (script : List Line) : List Listed :=
  (scriptAccesses repeats script).map listAccess

/-- How the host waits for a compression: "poll STATUS until BUSY = 0, or wait for irq with DIE = 1" (R120). -/
inductive WaitBy where
  | polling | irq
  deriving DecidableEq, Repr

/-- The wait as a part of a script. -/
def waitOp : WaitBy → HostOp
  | .polling => .wait
  | .irq => .awaitIrq

/-- The host procedure that realises the source's entry point (R120), each block with the way its end is waited for. The
first wait is a poll, as it is there only for BUSY = 0. The host enables DIE itself, before, where it waits for irq
(R140; log entry 18). -/
def hostCompress (a b c d : Word) (blocks : List (BlockBytes × WaitBy)) : List HostOp :=
  .wait :: (loadState a b c d).map .access ++ blocks.flatMap (fun p => blockOps (waitOp p.2) p.1)
    ++ readState.map .access

end Sys2Proof.Machine
end

