-- ==== Sys2Proof/Machine/HostRun.lean ====
section
/-! DEFINITION. A host that carries out a script on the cell, turn by turn: it presents the script's accesses in order, a
wait repeats while the words read say so, and an `expect` of another word stops the script with failure (R68, R120, R141).
Which agent has which turn is given, so every interleaving of R11 is some list of turns. -/

namespace Sys2Proof.Machine

/-- A `wait` goes on while bit 0 of the word read is 1 (R68). -/
def waitAgain (word : Word) : Bool := word.getLsbD 0

/-- A wait for irq ends where the word of STATUS read shows DONE = 1 (R141). -/
def readsDone (word : Word) : Bool := word.getLsbD 1

/-- An `expect` passes if the word read is the word it names (R68). -/
def expectPasses (imm word : Word) : Bool := word == imm

/-- A host on its way through a script, with its cell. -/
structure ScriptRun where
  /-- What is left of the script, the part in hand first. -/
  todo     : List HostOp
  /-- An `expect` has failed: the script has stopped. -/
  failed   : Bool
  /-- The accesses presented so far, in order. -/
  issued   : List Access
  /-- The words the reads among them returned, in order. -/
  returned : List Word
  /-- The cell. -/
  cell     : State
  deriving DecidableEq, Repr

/-- Who has the next turn: the host, the sequencer, or both in one clock cycle with rst_n = 1 (R11, R142). -/
inductive Turn where
  | host | sequencer | cycle
  deriving DecidableEq, Repr

/-- The access a part of a script presents in the host's turn. A wait for irq presents none while irq is 0 (R141). -/
def opAccess (irq : Bool) : HostOp → Option Access
  | .access a => some a
  | .wait => some (readOf statusOffset)
  | .awaitIrq => if irq then some (readOf statusOffset) else none
  | .expect addr _ => some (readOf addr)

/-- The access the host presents in its turn: none once the script is done or has stopped. -/
def ScriptRun.access (r : ScriptRun) : Option Access :=
  if r.failed then none
  else match r.todo with
    | [] => none
    | op :: _ => opAccess r.cell.irq op

/-- What is left of a script after the access of its first part returned `word`, and whether the script has failed.
DESIGN CHOICE (log entry 18): a wait for irq that reads DONE = 0, irq being 1 for an error, waits again. -/
def todoAfter (word : Word) : List HostOp → List HostOp × Bool
  | [] => ([], false)
  | .access _ :: rest => (rest, false)
  | .wait :: rest => (if waitAgain word then .wait :: rest else rest, false)
  | .awaitIrq :: rest => (if readsDone word then rest else .awaitIrq :: rest, false)
  | .expect addr imm :: rest => if expectPasses imm word then (rest, false) else (.expect addr imm :: rest, true)

/-- The host after the access `a`, which left the cell `t`. -/
def ScriptRun.after (r : ScriptRun) (a : Access) (t : State) : ScriptRun where
  todo     := (todoAfter t.rdata r.todo).1
  failed   := (todoAfter t.rdata r.todo).2
  issued   := r.issued ++ [a]
  returned := if a.we then r.returned else r.returned ++ [t.rdata]
  cell     := t

/-- The host and its cell after a step of the cell that presents `a`, if anything. -/
def ScriptRun.present (r : ScriptRun) (a : Option Access) (x : Stimulus) :
    Host.Outcome ScriptRun Fault Refusal :=
  match step (r.cell.setInputs (x :: r.cell.inputs)) with
  | .next t =>
    match a with
    | some a => .next (r.after a t)
    | none => .next { r with cell := t }
  | .fault e => .fault e
  | .refused e => .refused e

/-- One turn. A host's turn without an access, once the script is done, stopped, or waits for irq, changes nothing. -/
def scriptTurn (x : Turn) (r : ScriptRun) : Host.Outcome ScriptRun Fault Refusal :=
  match x with
  | .host =>
    match r.access with
    | some a => r.present (some a) (.host a)
    | none => .next r
  | .sequencer => r.present none .sequencer
  | .cycle =>
    match r.access with
    | some a => r.present (some a) (.clock ⟨true, true, a⟩)
    | none => r.present none (.clock ⟨true, false, readOf 0⟩)

/-- The turns, one after the other. -/
def runTurns : List Turn → ScriptRun → Host.Outcome ScriptRun Fault Refusal
  | [], r => .next r
  | x :: rest, r =>
    match scriptTurn x r with
    | .next r' => runTurns rest r'
    | .fault e => .fault e
    | .refused e => .refused e

/-- A host that is about to carry out a script on a cell. -/
def startScript (ops : List HostOp) (cell : State) : ScriptRun := ⟨ops, false, [], [], cell⟩

end Sys2Proof.Machine
end

