-- ==== Sys2Proof/Machine/Platform.lean ====
section
/-! DEFINITION. What R7 leaves to the platform, as arguments: where the register window sits (BASE_ADDR) and how many
independent cells there are (N_CELLS). No rule of the cell reads either (R7, R133, R134). -/

namespace Sys2Proof.Machine

/-- The offset in the window of a system address, where the window is at `base` (R14, R45). -/
def windowOffset (base sysAddr : Nat) : Option Offset :=
  if base ≤ sysAddr ∧ sysAddr < base + Config.windowBytes then some (BitVec.ofNat 10 (sysAddr - base)) else none

/-- N cells. Each has its own window, STATE, MSG, STATUS, CTRL and irq; they share the ROM's constants alone
(R134), but for the sequence of free values that W takes after a reset edge (DESIGN CHOICE, log entry 22). -/
abbrev Platform (nCells : Nat) := Vector State nCells

/-- One step of cell k. -/
def stepCell {nCells : Nat} (k : Fin nCells) (p : Platform nCells) : Host.Outcome (Platform nCells) Fault Refusal :=
  match step p[k] with
  | .next s => .next (p.set k s)
  | .fault e => .fault e
  | .refused e => .refused e

end Sys2Proof.Machine
end

