-- ==== Sys2Proof/Safety.lean ====
section
/-! DEFINITION. The terms claims are stated in: the spec's own formulation of a recorded error (R122 to R124), of
`MemRead` and `MemWrite` (R33, R34), the bytes of the register window as a host reads them, what the next step presents,
and the invariant of the reachable states. -/

namespace Sys2Proof

/-- The offsets that are mapped for reads alone: STATUS, ID, KROM and SROM (R14, R117). -/
def Offset.readOnly (addr : Offset) : Bool :=
  addr.toNat == 0x014 || addr.toNat == 0x01C || (0x100 ≤ addr.toNat && addr.toNat ≤ 0x2FF)

/-- The offsets of STATE and MSG (R14). -/
def Offset.inBlockOrState (addr : Offset) : Bool :=
  addr.toNat ≤ 0x00F || (0x040 ≤ addr.toNat && addr.toNat ≤ 0x07F)

/-- The access is the write of the command word under a full strobe (R102). -/
def Access.isCommand (a : Access) (word : Word) : Bool :=
  a.we && a.addr == 0x010#10 && a.wdata == word && a.wstrb == 0b1111#4

end Sys2Proof

namespace Sys2Proof.Machine

/-- `raise Error(code, addr)` as R123 writes it. -/
def recorded (code : BitVec 4) (addr : Offset) (s : State) : State :=
  if s.errcode = 0#4 then { s with errcode := code, erraddr := addr } else { s with errovf := true }

/-- What a rejected access leaves: the error recorded at its offset, nothing else of the cell changed, and a read
returning 0x00000000 (R123). -/
def rejected (code : BitVec 4) (a : Access) (s : State) : State :=
  if a.we then recorded code a.addr s else { recorded code a.addr s with rdata := 0 }

/-- The error an access raises, if any: the causes of R122 in the order of R124. -/
def errorOf (s : State) (a : Access) : Option (BitVec 4) :=
  if ¬ a.addr.aligned then some 5
  else if a.addr.unmapped then some 4
  else if a.we ∧ a.addr.readOnly then some 4
  else if a.we ∧ a.addr = 0x010#10 ∧ ¬ legalCommand a.wdata a.wstrb then some 1
  else if a.we ∧ a.addr = 0x010#10 ∧ a.wdata = 1#32 ∧ s.busy then some 2
  else if a.we ∧ a.addr.inBlockOrState ∧ a.wstrb ≠ 0#4 ∧ s.busy then some 3
  else none

/-- `MemRead(addr, 4)` of R33: the word returned, or the error raised. -/
def memRead (s : State) (addr : Offset) : Except (BitVec 4) Word :=
  let o := addr.toNat
  if o % 4 ≠ 0 then .error 5
  else if o ≤ 0x00C then .ok (s.chain[(o / 4) % 4]'(Nat.mod_lt _ (by decide)))
  else if o = 0x010 then .ok 0
  else if o = 0x014 then .ok s.statusWord
  else if o = 0x018 then .ok s.ctrlWord
  else if o = 0x01C then .ok 0x4D443501
  else if 0x040 ≤ o ∧ o ≤ 0x07C then .ok (s.msg[(o / 4) % 16]'(Nat.mod_lt _ (by decide)))
  else if 0x100 ≤ o ∧ o ≤ 0x1FC then .ok (kromTable.getD ((o - 0x100) / 4) 0)
  else if 0x200 ≤ o ∧ o ≤ 0x2FC then .ok (sromTable.getD ((o - 0x200) / 4) 0)
  else .error 4

/-- The state after a read access, by R33. -/
def afterRead (s : State) (addr : Offset) : State :=
  match memRead s addr with
  | .ok v => { s with rdata := v }
  | .error code => { recorded code addr s with rdata := 0 }

/-- Byte lane by byte lane, the register's new value under a write (R36). -/
def mergedWord (old wdata : Word) (wstrb : Strobe) : Word :=
  BitVec.ofNat 32 (((List.range 4).map fun k =>
    (if wstrb.getLsbD k then (wdata.toNat / 2 ^ (8 * k)) % 256 else (old.toNat / 2 ^ (8 * k)) % 256) * 2 ^ (8 * k)).sum)

/-- The command write, by R102 to R105. -/
def afterCommand (s : State) (wdata : Word) (wstrb : Strobe) : State :=
  if wstrb ≠ 0b1111#4 ∨ wdata.toNat / 16 ≠ 0 ∨ wdata.toNat % 16 > 2 then recorded 1 0x010 s
  else if wdata.toNat % 16 = 0 then s
  else if wdata.toNat % 16 = 1 then
    if s.busy then recorded 2 0x010 s
    else { s with
      working := ⟨s.chain[0], s.chain[1], s.chain[2], s.chain[3]⟩, rc := 0, busy := true, done := false }
  else { s with done := false, errcode := 0, errovf := false, erraddr := 0 }

/-- The state after a write access, by R34: `MemWrite(addr, 4, wdata, wstrb)`. -/
def afterWrite (s : State) (addr : Offset) (wdata : Word) (wstrb : Strobe) : State :=
  let o := addr.toNat
  if o % 4 ≠ 0 then recorded 5 addr s
  else if addr.unmapped then recorded 4 addr s
  else if o = 0x014 ∨ o = 0x01C ∨ (0x100 ≤ o ∧ o ≤ 0x2FC) then recorded 4 addr s
  else if o = 0x010 then afterCommand s wdata wstrb
  else if o = 0x018 then
    if wstrb.getLsbD 0 then { s with die := wdata.getLsbD 0, eie := wdata.getLsbD 1 } else s
  else if wstrb = 0#4 then s
  else if s.busy then recorded 3 addr s
  else if o ≤ 0x00C then
    let h := Nat.mod_lt (o / 4) (by decide : 0 < 4)
    { s with chain := s.chain.set ((o / 4) % 4) (mergedWord (s.chain[(o / 4) % 4]'h) wdata wstrb) h }
  else
    let h := Nat.mod_lt (o / 4) (by decide : 0 < 16)
    { s with msg := s.msg.set ((o / 4) % 16) (mergedWord (s.msg[(o / 4) % 16]'h) wdata wstrb) h }

/-- The byte of the register window at an offset, as a read of its word shows it, and 0 where no word is mapped
(R33, R36). -/
def windowByte (s : State) (b : Offset) : Byte :=
  match memRead s (BitVec.ofNat 10 (4 * (b.toNat / 4))) with
  | .ok v => lane v (b.toNat % 4)
  | .error _ => 0

/-- The bytes a write access addresses and its strobe enables (R36). -/
def storedByte (a : Access) (b : Offset) : Bool :=
  a.we && b.toNat / 4 == a.addr.toNat / 4 && a.wstrb.getLsbD (b.toNat % 4)

/-- The four bytes of STATUS (R22). -/
def statusByte (b : Offset) : Bool := b.toNat / 4 == 0x014 / 4

/-- The access the next step evaluates, if it evaluates one: a host step's, or one presented at a clock edge with
rst_n = 1 (R11, R137, R142). -/
def State.presented (s : State) : Option Access :=
  match s.inputs with
  | .host a :: _ => some a
  | .clock p :: _ => if p.rstN && p.valid then some p.access else none
  | _ => none

/-- The next step is a reset edge (R137). -/
def State.resets (s : State) : Bool :=
  match s.inputs with
  | .clock p :: _ => !p.rstN
  | _ => false

/-- The next step holds an enabled step of the sequencer (R92, R142). -/
def State.sequencerTurn (s : State) : Bool :=
  s.busy && match s.inputs with
    | .host _ :: _ => false
    | .clock p :: _ => p.rstN
    | _ => true

/-- The next step is, or holds, the feed-forward (R94). -/
def State.feedsForward (s : State) : Bool := s.sequencerTurn && s.rc == 64#7

/-- The two states agree on everything but the hidden registers W and RC (R13). -/
def sameButHidden (s t : State) : Prop := t = { s with working := t.working, rc := t.rc }

/-- The stimulus is a host step or a sequencer step of the interleaving model, not a clock edge (R11). -/
def Stimulus.interleaved : Stimulus → Bool
  | .host _ | .sequencer => true
  | .clock _ => false

/-- In the state, reads of ID, KROM and SROM return their constants (R25, R76). -/
def readsConstants (s : State) : Prop :=
  (∃ t, exec .rdId s = .next t ∧ t.rdata = 0x4D443501) ∧
  ∀ i : BitVec 6,
    (∃ t, exec (.rdKrom i) s = .next t ∧ t.rdata = kromTable.getD i.toNat 0) ∧
    ∃ t, exec (.rdSrom i) s = .next t ∧ t.rdata = sromTable.getD i.toNat 0

/-- `n` steps, one after the other. -/
def runSteps : Nat → State → Result
  | 0, s => .next s
  | n + 1, s => andThen (step s) (runSteps n)

/-- `t` is `s` after a round with the function value `f`, the message word `m`, the constant `k` and the rotation amount
`amount`, in exact arithmetic narrowed modulo 2^32 (R83, R9): only W differs, its roles have moved on, and W.b is the old
W.b plus the sum rotated left. -/
def RoundResult (s t : State) (f m k : Word) (amount : Nat) : Prop :=
  let sum := (s.working.a.toNat + f.toNat + m.toNat + k.toNat) % 2 ^ 32
  let rotated := sum * 2 ^ amount % 2 ^ 32 + sum / 2 ^ (32 - amount)
  t = { s with working := t.working } ∧ t.working.a = s.working.d ∧ t.working.c = s.working.b ∧
    t.working.d = s.working.c ∧ t.working.b.toNat = (s.working.b.toNat + rotated) % 2 ^ 32

/-- The host writes that load a block, the COMPRESS, and the 65 sequencer steps of its compression (R95, R120). -/
def blockStimuli (msg : Vector Word 16) : List Stimulus :=
  (loadBlock msg).map .host ++ [.host (fullWrite cmdOffset 1)] ++ List.replicate Config.compressLatency .sequencer

/-- The invariant of the reachable states: RC, BUSY and DONE agree (R20, R22), the error fields hold one of the records of
R122, and while a compression runs W is what rounds 0 to RC-1 of it make (R91, R93, R96). -/
structure Inv (s : State) : Prop where
  /-- No step takes RC past 64 (R20). -/
  rc_le      : s.rc.toNat ≤ 64
  /-- While BUSY = 0, RC is 0 (R20). -/
  rc_idle    : s.busy = false → s.rc = 0#7
  /-- BUSY and DONE are never both 1 (R22). -/
  exclusive  : ¬ (s.busy = true ∧ s.done = true)
  /-- Codes 6 to 15 are never produced (R122). -/
  code_le    : s.errcode.toNat ≤ 5
  /-- Without an error the other error fields are clear (R22, R122). -/
  code_none  : s.errcode = 0#4 → s.errovf = false ∧ s.erraddr = 0#10
  /-- ILLEGAL_CMD and CMD_WHILE_BUSY record 0x010 (R122). -/
  code_cmd   : s.errcode = 1#4 ∨ s.errcode = 2#4 → s.erraddr = 0x010#10
  /-- WRITE_WHILE_BUSY records an offset of STATE or MSG (R122). -/
  code_busy  : s.errcode = 3#4 → s.erraddr.aligned = true ∧ s.erraddr.inBlockOrState = true
  /-- BAD_ACCESS records an unmapped or a read-only offset (R122). -/
  code_bad   : s.errcode = 4#4 → s.erraddr.aligned = true ∧ (s.erraddr.unmapped || s.erraddr.readOnly) = true
  /-- MISALIGNED records a misaligned offset (R122). -/
  code_align : s.errcode = 5#4 → s.erraddr.aligned = false
  /-- W follows the rounds of the block and state held since the accept (R91, R93, R96). -/
  progress   : s.busy = true → s.working = roundsFrom (workingOf s.chain) s.msg s.rc.toNat

end Sys2Proof.Machine
end

