-- ==== Sys2Proof/Certificates/Slice0/Obligations.lean ====
section
/-! DEFINITION. The statements for the provers. Each docstring names the rules of spec/ it formalises. -/

open Sys2Proof Sys2Proof.Machine

/-! ### Encodings -/

/-- Decode and encode agree, for every instruction of every format (R55, R57, R60, R63): no bit of an operand is
dropped. -/
def Obligations.EveryEncodingDecodesBack : Prop :=
  ∀ i : Instr, i.wf = true → decode (encode i) = .ok i

/-- R55, in terms of offsets: a misaligned access is row 1's; every aligned key lies in exactly one row; and the access
kind and its index field are those of the row's offsets. -/
def Obligations.AccessKindFollowsTheOffset : Prop :=
  ∀ a : Access,
    (a.addr.toNat % 4 ≠ 0 → decodeBus a = .accMisaligned a.we a.addr) ∧
    (a.addr.toNat % 4 = 0 →
      (busRows.filter (fun r => r.matches a.key)).length = 1 ∧
      decodeBus a =
        let o := a.addr.toNat
        if o ≤ 0x00C then
          if a.we then .wrState (BitVec.ofNat 2 (o / 4)) a.wdata a.wstrb else .rdState (BitVec.ofNat 2 (o / 4))
        else if o = 0x010 then if a.we then .wrCmd a.wdata a.wstrb else .rdCmd
        else if o = 0x014 then if a.we then .wrStatus a.wdata a.wstrb else .rdStatus
        else if o = 0x018 then if a.we then .wrCtrl a.wdata a.wstrb else .rdCtrl
        else if o = 0x01C then if a.we then .wrId a.wdata a.wstrb else .rdId
        else if o ≤ 0x03F then .accUnmapped a.we a.addr
        else if o ≤ 0x07C then
          if a.we then .wrMsg (BitVec.ofNat 4 (o / 4)) a.wdata a.wstrb else .rdMsg (BitVec.ofNat 4 (o / 4))
        else if o ≤ 0x0FF then .accUnmapped a.we a.addr
        else if o ≤ 0x1FC then
          if a.we then .wrKrom (BitVec.ofNat 6 (o / 4)) a.wdata a.wstrb else .rdKrom (BitVec.ofNat 6 (o / 4))
        else if o ≤ 0x2FC then
          if a.we then .wrSrom (BitVec.ofNat 6 (o / 4)) a.wdata a.wstrb else .rdSrom (BitVec.ofNat 6 (o / 4))
        else .accUnmapped a.we a.addr)

/-- R57, R58: a command word is legal if and only if MBZ = 0 and OP is 0, 1 or 2, that is, if it is 0, 1 or 2; those
three are NOP, COMPRESS and ACK; and every other word, and every other strobe, is CMD.ILLEGAL (R59). -/
def Obligations.LegalCommandWordsAreThree : Prop :=
  ∀ (word : Word) (strobe : Strobe),
    (decodeCmd word strobe = .cmdIllegal word strobe ↔
      ¬ (strobe = 0b1111#4 ∧ word.toNat / 16 = 0 ∧ word.toNat % 16 ≤ 2)) ∧
    (word.toNat / 16 = 0 ∧ word.toNat % 16 ≤ 2 ↔ word = 0#32 ∨ word = 1#32 ∨ word = 2#32) ∧
    (strobe = 0b1111#4 → word.toNat = 0 → decodeCmd word strobe = .nop) ∧
    (strobe = 0b1111#4 → word.toNat = 1 → decodeCmd word strobe = .compress) ∧
    (strobe = 0b1111#4 → word.toNat = 2 → decodeCmd word strobe = .ack)

/-- R60, R61, R65: the fields of any SROM word, whatever its reserved bits hold, select the micro-operation and its
operands. -/
def Obligations.SromWordSelectsTheRound : Prop :=
  ∀ word : Word,
    decode (.srom word) = .ok
      (let idx := BitVec.ofNat 4 (word.toNat / 2 ^ 8)
       let amount := BitVec.ofNat 5 (word.toNat / 2 ^ 16)
       if word.toNat % 4 = 0 then .roundF idx amount
       else if word.toNat % 4 = 1 then .roundG idx amount
       else if word.toNat % 4 = 2 then .roundH idx amount
       else .roundI idx amount)

/-- Words written out from the spec's encodings decode to the instructions they stand for: a misaligned and an unmapped
key, the accesses of R69's two examples, `rd B`, a read of KROM63, the three commands, an illegal one, the SROM words of
R60's examples, and the sequencer's first round and feed-forward (R55, R58, R60, R63, R69). -/
def Obligations.SpecWordsDecode : Prop :=
  decode (.bus ⟨true, 0b0000010001#10, 1, 0b1111⟩) = .ok (.accMisaligned true 0x011) ∧
  decode (.bus ⟨false, 0b1100000000#10, 0, 0⟩) = .ok (.accUnmapped false 0x300) ∧
  decode (.bus ⟨true, 0b0000010000#10, 1, 0b1111⟩) = .ok (.wrCmd 1 0b1111) ∧
  decode (.bus ⟨true, 0b0001000100#10, 0x00006100, 0b0010⟩) = .ok (.wrMsg 1 0x00006100 0b0010) ∧
  decode (.bus ⟨false, 0b0000000100#10, 0, 0⟩) = .ok (.rdState 1) ∧
  decode (.bus ⟨false, 0b0111111100#10, 0, 0⟩) = .ok (.rdKrom 63) ∧
  decode (.cmd 0x00000000 0b1111) = .ok .nop ∧
  decode (.cmd 0x00000001 0b1111) = .ok .compress ∧
  decode (.cmd 0x00000002 0b1111) = .ok .ack ∧
  decode (.cmd 0x00000010 0b1111) = .ok (.cmdIllegal 0x00000010 0b1111) ∧
  decode (.srom 0b00000000000001110000000000000000) = .ok (.roundF 0 7) ∧
  decode (.srom 0b00000000000001010000000100000001) = .ok (.roundG 1 5) ∧
  decode (.srom 0b00000000000101010000100100000011) = .ok (.roundI 9 21) ∧
  decode (.seq 0b0000000) = .ok (.seqRound 0) ∧
  decode (.seq 0b1000000) = .ok .seqFeedforward

/-! ### The step -/

/-- A step runs the instruction that the code fetched decodes to, on the state whose schedule has lost its first entry;
the code fetched is the host's access, or RC where the sequencer has the step (R11, R31, R63). The schedule is the model's
(log entry 1). -/
def Obligations.StepExecutesTheFetchedInstruction : Prop :=
  (∀ (s : State) (c : Code) (i : Instr), s.fetch = some c → decode c = .ok i →
    step s = exec i (s.setInputs s.inputs.tail)) ∧
  (∀ (s : State) (a : Access) (rest : List Stimulus), s.inputs = .host a :: rest → s.fetch = some (.bus a)) ∧
  (∀ (s : State) (rest : List Stimulus), s.inputs = [] ∨ s.inputs = .sequencer :: rest → s.busy = true →
    s.fetch = some (.seq s.rc))

/-- R63, R92: while BUSY = 1 the sequencer's step is the one RC selects, and while BUSY = 0 it has none. That an empty
schedule gives the step to the sequencer, that RC of 65 to 127 is stuck, and that an idle step leaves the state, are the
model's (log entries 1, 6 and 15). -/
def Obligations.SequencerStepFollowsTheRoundCounter : Prop :=
  ∀ (s : State) (rest : List Stimulus),
    (s.inputs = [] ∧ rest = [] ∨ s.inputs = .sequencer :: rest) →
    (s.busy = true → s.rc.toNat < 64 → step s = exec (.seqRound (BitVec.ofNat 6 s.rc.toNat)) (s.setInputs rest)) ∧
    (s.busy = true → s.rc.toNat = 64 → step s = exec .seqFeedforward (s.setInputs rest)) ∧
    (s.busy = true → 64 < s.rc.toNat → step s = .fault .sequencerStuck) ∧
    (s.busy = false → step s = .next (s.setInputs rest))

/-- R142: a clock edge with rst_n = 1 does what the interleaving model does in the host step and then the sequencer step
that fall in its cycle. That the sequencer steps at an edge if and only if BUSY was 1 before it is log entry 7. -/
def Obligations.ClockEdgeIsAnInterleaving : Prop :=
  ∀ (s : State) (p : Pins) (rest : List Stimulus), s.inputs = .clock p :: rest → p.rstN = true →
    (p.valid = true → s.busy = true →
      step s = runSteps 2 (s.setInputs (.host p.access :: .sequencer :: rest))) ∧
    (p.valid = true → s.busy = false → step s = runSteps 1 (s.setInputs (.host p.access :: rest))) ∧
    (p.valid = false → s.busy = true → step s = runSteps 1 (s.setInputs (.sequencer :: rest))) ∧
    (p.valid = false → s.busy = false → step s = .next (s.setInputs rest))

/-- R125: in the cycle of the feed-forward, a write to STATE or MSG is rejected with WRITE_WHILE_BUSY, a COMPRESS with
CMD_WHILE_BUSY, and an ACK clears the error fields; the feed-forward takes effect as well. -/
def Obligations.AccessInTheFeedforwardCycle : Prop :=
  ∀ (s : State) (a : Access) (rest : List Stimulus), s.inputs = .clock ⟨true, true, a⟩ :: rest →
    s.busy = true → s.rc = 64#7 → a.we = true →
    ∃ t, step s = .next t ∧ t.busy = false ∧ t.done = true ∧ t.rc = 0#7 ∧
      t.chain = addWorking s.chain s.working ∧ t.msg = s.msg ∧
      (a.addr.aligned = true → a.addr.inBlockOrState = true → a.wstrb ≠ 0#4 →
        (t.errcode, t.errovf, t.erraddr) =
          if s.errcode = 0#4 then (3#4, s.errovf, a.addr) else (s.errcode, true, s.erraddr)) ∧
      (a.isCommand 1 = true →
        (t.errcode, t.errovf, t.erraddr) =
          if s.errcode = 0#4 then (2#4, s.errovf, 0x010#10) else (s.errcode, true, s.erraddr)) ∧
      (a.isCommand 2 = true → (t.errcode, t.errovf, t.erraddr) = (0#4, false, 0#10))

/-! ### Host accesses -/

/-- R33: a host read is `MemRead`, evaluated against the state before the step: it returns the word of the offset, or
records its error and returns 0, and changes nothing else. -/
def Obligations.HostReadsFollowMemRead : Prop :=
  ∀ (s : State) (a : Access) (rest : List Stimulus), s.inputs = .host a :: rest → a.we = false →
    step s = .next (afterRead (s.setInputs rest) a.addr)

/-- R34: a host write is `MemWrite`, evaluated against the state before the step, in its order of cases, with the command
write of R102, the CTRL write of R113 and the merge of R36. -/
def Obligations.HostWritesFollowMemWrite : Prop :=
  ∀ (s : State) (a : Access) (rest : List Stimulus), s.inputs = .host a :: rest → a.we = true →
    step s = .next (afterWrite (s.setInputs rest) a.addr a.wdata a.wstrb)

/-- R124: an access raises at most one error, the first of its causes in R124's order; it is recorded and the access has
no other effect. An access with no cause leaves the error fields alone, but for an ACK, which clears them. -/
def Obligations.AccessReportsItsFirstError : Prop :=
  ∀ (s : State) (a : Access),
    (∀ code, errorOf s a = some code → hostStep a s = .next (rejected code a s)) ∧
    (errorOf s a = none → ∃ t, hostStep a s = .next t ∧
      (t.errcode, t.errovf, t.erraddr) =
        if a.isCommand 2 then (0#4, false, 0#10) else (s.errcode, s.errovf, s.erraddr))

/-- R119: any misaligned access records MISALIGNED at its full offset, whatever else it is, a read returning 0, and has no
other effect. -/
def Obligations.MisalignedAccessIsRejected : Prop :=
  ∀ (s : State) (a : Access), a.addr.toNat % 4 ≠ 0 →
    exec (.accMisaligned a.we a.addr) s = .next (rejected 5 a s) ∧ hostStep a s = .next (rejected 5 a s)

/-- R35, R118: an aligned access to an unmapped offset records BAD_ACCESS at the offset, a read returning 0, and has no
other effect. -/
def Obligations.UnmappedAccessIsRejected : Prop :=
  ∀ (s : State) (a : Access), a.addr.toNat % 4 = 0 →
    (0x020 ≤ a.addr.toNat ∧ a.addr.toNat ≤ 0x03F ∨ 0x080 ≤ a.addr.toNat ∧ a.addr.toNat ≤ 0x0FF ∨
      0x300 ≤ a.addr.toNat ∧ a.addr.toNat ≤ 0x3FF) →
    exec (.accUnmapped a.we a.addr) s = .next (rejected 4 a s) ∧ hostStep a s = .next (rejected 4 a s)

/-- R117: a write to STATUS, ID, KROM or SROM records BAD_ACCESS at its offset, whatever its data and strobe, and has no
other effect; the words read there stay as they were. -/
def Obligations.ReadOnlyWriteIsRejected : Prop :=
  ∀ (s : State) (wdata : Word) (wstrb : Strobe) (i j : BitVec 6),
    exec (.wrStatus wdata wstrb) s = .next (recorded 4 0x014 s) ∧
    exec (.wrId wdata wstrb) s = .next (recorded 4 0x01C s) ∧
    exec (.wrKrom i wdata wstrb) s = .next (recorded 4 (BitVec.ofNat 10 (0x100 + 4 * i.toNat)) s) ∧
    exec (.wrSrom i wdata wstrb) s = .next (recorded 4 (BitVec.ofNat 10 (0x200 + 4 * i.toNat)) s) ∧
    hostStep (writeOf 0x014 wdata wstrb) s = exec (.wrStatus wdata wstrb) s ∧
    hostStep (writeOf 0x01C wdata wstrb) s = exec (.wrId wdata wstrb) s ∧
    hostStep (writeOf (BitVec.ofNat 10 (0x100 + 4 * i.toNat)) wdata wstrb) s = exec (.wrKrom i wdata wstrb) s ∧
    hostStep (writeOf (BitVec.ofNat 10 (0x200 + 4 * i.toNat)) wdata wstrb) s = exec (.wrSrom i wdata wstrb) s ∧
    (∀ t, exec (.wrKrom i wdata wstrb) s = .next t ∨ exec (.wrSrom i wdata wstrb) s = .next t →
      ∃ u v, exec (.rdKrom j) t = .next u ∧ u.rdata = krom j ∧ exec (.rdSrom j) t = .next v ∧ v.rdata = srom j)

/-- R106, R108, R110, R114: a read of STATE[n], MSG[j], CMD or ID returns that word, 0 for CMD, and changes nothing else,
BUSY or not. -/
def Obligations.RegisterReadsReturnTheirWord : Prop :=
  ∀ (s : State) (n : BitVec 2) (j : BitVec 4),
    exec (.rdState n) s = .next { s with rdata := s.chain[n.toNat]'n.isLt } ∧
    exec (.rdMsg j) s = .next { s with rdata := s.msg[j.toNat]'j.isLt } ∧
    exec .rdCmd s = .next { s with rdata := 0x00000000 } ∧
    exec .rdId s = .next { s with rdata := 0x4D443501 } ∧
    hostStep (readOf (BitVec.ofNat 10 (4 * n.toNat))) s = exec (.rdState n) s ∧
    hostStep (readOf (BitVec.ofNat 10 (0x040 + 4 * j.toNat))) s = exec (.rdMsg j) s ∧
    hostStep (readOf 0x010) s = exec .rdCmd s ∧ hostStep (readOf 0x01C) s = exec .rdId s

/-- R111: a read of STATUS returns its fields at their places, every other bit 0, and clears nothing; while a compression
runs (BUSY = 1, where the invariant holds) it shows BUSY = 1 and DONE = 0. -/
def Obligations.StatusReadShowsItsFields : Prop :=
  ∀ s : State, ∃ t, exec .rdStatus s = .next t ∧ hostStep (readOf 0x014) s = .next t ∧
    t = { s with rdata := t.rdata } ∧
    t.rdata.toNat = s.busy.toNat + 2 * s.done.toNat + 16 * s.errcode.toNat + 256 * s.errovf.toNat
      + 65536 * s.erraddr.toNat ∧
    (Inv s → s.busy = true → t.rdata.toNat % 4 = 1)

/-- R112: a read of CTRL returns EIE and DIE in its two low bits, every other bit 0. -/
def Obligations.ControlReadShowsTheEnables : Prop :=
  ∀ s : State, ∃ t, exec .rdCtrl s = .next t ∧ hostStep (readOf 0x018) s = .next t ∧
    t = { s with rdata := t.rdata } ∧ t.rdata.toNat = s.die.toNat + 2 * s.eie.toNat

/-- R113: a write to CTRL sets DIE and EIE from bits 0 and 1 where lane 0 is enabled, and otherwise nothing, BUSY or not; a
read then returns the two bits, whatever else was written; setting DIE while DONE = 1 asserts irq at once. -/
def Obligations.ControlWriteSetsTheEnables : Prop :=
  ∀ (s : State) (wdata : Word) (wstrb : Strobe), ∃ t, exec (.wrCtrl wdata wstrb) s = .next t ∧
    hostStep (writeOf 0x018 wdata wstrb) s = .next t ∧
    (wstrb.getLsbD 0 = true → t = { s with die := wdata.getLsbD 0, eie := wdata.getLsbD 1 }) ∧
    (wstrb.getLsbD 0 = false → t = s) ∧
    (wstrb.getLsbD 0 = true → ∃ u, exec .rdCtrl t = .next u ∧ u.rdata.toNat = wdata.toNat % 4) ∧
    (wstrb.getLsbD 0 = true → wdata.getLsbD 0 = true → s.done = true → t.irq = true)

/-- R44, R60, R72, R73, R74, R116: a read of SROM[i] returns the packed entry of round i, whose function is the stage's,
whose message index and rotation amount follow the formulas, with every reserved bit 0. -/
def Obligations.SromReadsFollowTheScheduleFormulas : Prop :=
  ∀ (s : State) (i : BitVec 6),
    let n := i.toNat
    let idx := if n < 16 then n % 16 else if n < 32 then (5 * n + 1) % 16
      else if n < 48 then (3 * n + 5) % 16 else 7 * n % 16
    let amounts := if n < 16 then [7, 12, 17, 22] else if n < 32 then [5, 9, 14, 20]
      else if n < 48 then [4, 11, 16, 23] else [6, 10, 15, 21]
    ∃ t, exec (.rdSrom i) s = .next t ∧ hostStep (readOf (BitVec.ofNat 10 (0x200 + 4 * n))) s = .next t ∧
      t = { s with rdata := t.rdata } ∧
      t.rdata.toNat = n / 16 + 2 ^ 8 * idx + 2 ^ 16 * amounts.getD (n % 4) 0

/-- R44, R77, R115: a read of KROM[i] returns K[i], the same in every state and after every other access, BUSY or not, and
changes nothing else. -/
def Obligations.KromReadsAreIdempotent : Prop :=
  ∀ (s : State) (i : BitVec 6) (a : Access),
    exec (.rdKrom i) s = .next { s with rdata := kromTable.getD i.toNat 0 } ∧
    hostStep (readOf (BitVec.ofNat 10 (0x100 + 4 * i.toNat))) s = exec (.rdKrom i) s ∧
    ∃ t u, hostStep a s = .next t ∧ exec (.rdKrom i) t = .next u ∧ u.rdata = kromTable.getD i.toNat 0

/-- R36, R107: a write to STATE[n]. With a zero strobe nothing changes; while BUSY = 1 it is WRITE_WHILE_BUSY; otherwise
each enabled lane of STATE[n] takes the data's, each other lane and each other word stays, and so does all the rest. -/
def Obligations.StateWriteMergesTheEnabledLanes : Prop :=
  ∀ (s : State) (n : BitVec 2) (wdata : Word) (wstrb : Strobe),
    hostStep (writeOf (BitVec.ofNat 10 (4 * n.toNat)) wdata wstrb) s = exec (.wrState n wdata wstrb) s ∧
    (wstrb = 0#4 → exec (.wrState n wdata wstrb) s = .next s) ∧
    (wstrb ≠ 0#4 → s.busy = true →
      exec (.wrState n wdata wstrb) s = .next (recorded 3 (BitVec.ofNat 10 (4 * n.toNat)) s)) ∧
    (s.busy = false → ∃ t, exec (.wrState n wdata wstrb) s = .next t ∧ t = { s with chain := t.chain } ∧
      (∀ k < 4, lane (t.chainWord n) k = if wstrb.getLsbD k then lane wdata k else lane (s.chainWord n) k) ∧
      (∀ m, m ≠ n → t.chainWord m = s.chainWord m))

/-- R36, R109: a write to MSG[j], likewise. -/
def Obligations.MsgWriteMergesTheEnabledLanes : Prop :=
  ∀ (s : State) (j : BitVec 4) (wdata : Word) (wstrb : Strobe),
    hostStep (writeOf (BitVec.ofNat 10 (0x040 + 4 * j.toNat)) wdata wstrb) s = exec (.wrMsg j wdata wstrb) s ∧
    (wstrb = 0#4 → exec (.wrMsg j wdata wstrb) s = .next s) ∧
    (wstrb ≠ 0#4 → s.busy = true →
      exec (.wrMsg j wdata wstrb) s = .next (recorded 3 (BitVec.ofNat 10 (0x040 + 4 * j.toNat)) s)) ∧
    (s.busy = false → ∃ t, exec (.wrMsg j wdata wstrb) s = .next t ∧ t = { s with msg := t.msg } ∧
      (∀ k < 4, lane (t.msgWord j) k = if wstrb.getLsbD k then lane wdata k else lane (s.msgWord j) k) ∧
      (∀ m, m ≠ j → t.msgWord m = s.msgWord m))

/-- R37, R68: the write that `wrb n, imm` expands to, while idle, makes block byte n the byte given and leaves the other 63
and everything else. -/
def Obligations.ByteWriteSetsOneBlockByte : Prop :=
  ∀ (s : State) (n : BitVec 6) (imm : Byte), s.busy = false →
    ∃ a t, scriptAccesses [] [.wrb n imm] = [a] ∧ hostStep a s = .next t ∧ t = { s with msg := t.msg } ∧
      t.blockByte n = imm ∧ ∀ m, m ≠ n → t.blockByte m = s.blockByte m

/-- Frame (R34, R36, R123): after a write access every byte of the window reads as before, but for the bytes the access
addresses and its strobe enables, and the bytes of STATUS. -/
def Obligations.WriteLeavesOtherWindowBytes : Prop :=
  ∀ (s : State) (a : Access), a.we = true → ∃ t, hostStep a s = .next t ∧
    ∀ b : Offset, storedByte a b = false → statusByte b = false → windowByte t b = windowByte s b

/-- Frame (R21, R43, R93): after a read access that raises no error, and after a round of the sequencer, every byte of the
window reads as before; after a read that raises one, every byte but those of STATUS. -/
def Obligations.ReadsAndRoundsLeaveTheWindow : Prop :=
  (∀ (s : State) (a : Access), a.we = false → ∃ t, hostStep a s = .next t ∧
    ∀ b : Offset, errorOf s a = none ∨ statusByte b = false → windowByte t b = windowByte s b) ∧
  (∀ (s : State) (i : BitVec 6), ∃ t, exec (.seqRound i) s = .next t ∧ ∀ b : Offset, windowByte t b = windowByte s b)

/-- R43: repeating a write that the cell accepts, to STATE or MSG while idle or to CTRL at any time, gives the same
state. -/
def Obligations.AcceptedWritesAreIdempotent : Prop :=
  ∀ (s : State) (a : Access), a.we = true → a.addr.toNat % 4 = 0 →
    (a.addr.inBlockOrState = true ∧ s.busy = false ∨ a.addr = 0x018#10) →
    ∃ t, hostStep a s = .next t ∧ hostStep a t = .next t

/-! ### Commands -/

/-- R103: NOP changes nothing, BUSY or not. -/
def Obligations.NopChangesNothing : Prop :=
  ∀ s : State, exec .nop s = .next s ∧ hostStep (writeOf 0x010 0x00000000 0b1111) s = .next s

/-- R91, R104: a COMPRESS while idle loads W from STATE, clears RC and DONE and sets BUSY, and changes nothing else; while
BUSY = 1 it is CMD_WHILE_BUSY. -/
def Obligations.CompressIsAcceptedWhileIdle : Prop :=
  ∀ s : State,
    hostStep (writeOf 0x010 0x00000001 0b1111) s = exec .compress s ∧
    (s.busy = false → exec .compress s = .next { s with
      working := ⟨s.chain[0], s.chain[1], s.chain[2], s.chain[3]⟩, rc := 0, busy := true, done := false }) ∧
    (s.busy = true → exec .compress s = .next (recorded 2 0x010 s))

/-- R105, R129: ACK clears DONE and the error fields, which drops irq, and changes nothing else, BUSY or not. -/
def Obligations.AckClearsDoneAndErrors : Prop :=
  ∀ s : State, ∃ t, exec .ack s = .next t ∧ hostStep (writeOf 0x010 0x00000002 0b1111) s = .next t ∧
    t = { s with done := false, errcode := 0, errovf := false, erraddr := 0 } ∧ t.irq = false

/-- R59, R102: an illegal command word or strobe is ILLEGAL_CMD at 0x010, BUSY or not, with no other effect. -/
def Obligations.IllegalCommandIsRejected : Prop :=
  ∀ (s : State) (word : Word) (strobe : Strobe), ¬ (strobe = 0b1111#4 ∧ word.toNat ≤ 2) →
    exec (.cmdIllegal word strobe) s = .next (recorded 1 0x010 s) ∧
    hostStep (writeOf 0x010 word strobe) s = .next (recorded 1 0x010 s)

/-- R102: a write to CMD answers a next state, that of the command its word and strobe decode to. -/
def Obligations.CommandWriteRunsItsCommand : Prop :=
  ∀ (s : State) (word : Word) (strobe : Strobe) (i : Instr), decode (.cmd word strobe) = .ok i →
    exec (.wrCmd word strobe) s = exec i s ∧ ∃ t, exec (.wrCmd word strobe) s = .next t

/-! ### The round datapath -/

/-- R82: bit k of each function depends on bit k of x, y and z alone, by the truth table, whose column for each function
is written here as a byte, bit 4x+2y+z. -/
def Obligations.RoundFunctionsFollowTheTruthTable : Prop :=
  ∀ (x y z : Word) (k : Nat), k < 32 →
    let row := 4 * (x.getLsbD k).toNat + 2 * (y.getLsbD k).toNat + (z.getLsbD k).toNat
    (roundFnF x y z).getLsbD k = (0b11001010#8).getLsbD row ∧
    (roundFnG x y z).getLsbD k = (0b11100100#8).getLsbD row ∧
    (roundFnH x y z).getLsbD k = (0b10010110#8).getLsbD row ∧
    (roundFnI x y z).getLsbD k = (0b00111001#8).getLsbD row

/-- R79: G is its formula, per bit the select of x or y by z, and equally the carry-free sum of the formula's two terms,
which share no bit. -/
def Obligations.GIsItsCarryFreeSum : Prop :=
  ∀ x y z : Word, roundFnG x y z = (x &&& z) ||| (y &&& ~~~z) ∧
    (∀ k < 32, (roundFnG x y z).getLsbD k = if z.getLsbD k then x.getLsbD k else y.getLsbD k) ∧
    roundFnG x y z = (x &&& z) + (y &&& ~~~z) ∧ (x &&& z) &&& (y &&& ~~~z) = 0#32 ∧
    (x &&& z).toNat + (y &&& ~~~z).toNat < 2 ^ 32

/-- R83, R86 to R89: each round micro-operation forms its own function of W.b, W.c and W.d, the sum with W.a, the indexed
message word and the round's constant, the rotation and the last addition, all modulo 2^32, moves the roles on, and writes
W alone. That a micro-operation on its own takes the constant of the round RC stands at, KROM[RC[5:0]], is the model's
reading (log entry 11, DEDUCED). -/
def Obligations.RoundMicroOperations : Prop :=
  ∀ (s : State) (idx : BitVec 4) (amount : BitVec 5),
    let x := s.working.b
    let y := s.working.c
    let z := s.working.d
    let k := kromTable.getD (s.rc.toNat % 64) 0
    let m := s.msg[idx.toNat]'idx.isLt
    (∃ t, exec (.roundF idx amount) s = .next t ∧ RoundResult s t ((x &&& y) ||| (~~~x &&& z)) m k amount.toNat) ∧
    (∃ t, exec (.roundG idx amount) s = .next t ∧ RoundResult s t ((x &&& z) ||| (y &&& ~~~z)) m k amount.toNat) ∧
    (∃ t, exec (.roundH idx amount) s = .next t ∧ RoundResult s t (x ^^^ y ^^^ z) m k amount.toNat) ∧
    (∃ t, exec (.roundI idx amount) s = .next t ∧ RoundResult s t (y ^^^ (x ||| ~~~z)) m k amount.toNat)

/-- R63, R93: while BUSY = 1 and RC = i < 64, SEQ.ROUND is the micro-operation that SROM[i] selects, and then RC + 1; it
writes W and RC alone. -/
def Obligations.SequencerRoundRunsItsMicroOperation : Prop :=
  ∀ (s : State) (i : BitVec 6), s.busy = true → s.rc.toNat = i.toNat →
    ∃ j t u, decode (.srom (srom i)) = .ok j ∧ exec j s = .next t ∧ exec (.seqRound i) s = .next u ∧
      u = { t with rc := u.rc } ∧ u.rc.toNat = i.toNat + 1 ∧ u = { s with working := u.working, rc := u.rc }

/-- R94: while BUSY = 1, the feed-forward adds W.a to W.d into STATE[0] to STATE[3] modulo 2^32, clears BUSY and RC, sets
DONE, and changes nothing else. R94 says so of RC = 64; that exec does the same at another RC is the model's (log
entry 21). -/
def Obligations.FeedforwardAddsTheWorkingRegisters : Prop :=
  ∀ s : State, s.busy = true → ∃ t, exec .seqFeedforward s = .next t ∧
    t = { s with chain := t.chain, busy := false, done := true, rc := 0 } ∧
    t.chain[0].toNat = (s.chain[0].toNat + s.working.a.toNat) % 2 ^ 32 ∧
    t.chain[1].toNat = (s.chain[1].toNat + s.working.b.toNat) % 2 ^ 32 ∧
    t.chain[2].toNat = (s.chain[2].toNat + s.working.c.toNat) % 2 ^ 32 ∧
    t.chain[3].toNat = (s.chain[3].toNat + s.working.d.toNat) % 2 ^ 32

/-! ### Rules over every step -/

/-- R20, R22, R91, R93, R96, R122: every step keeps the invariant. -/
def Obligations.EveryStepKeepsTheInvariant : Prop :=
  ∀ s t : State, Inv s → step s = .next t → Inv t

/-- The invariant holds right after reset (R29). -/
def Obligations.ResetStateMeetsTheInvariant : Prop := Inv State.reset

/-- R121, R128: where the invariant holds, every step answers a next state: nothing traps and nothing stops. -/
def Obligations.NoStepStops : Prop :=
  ∀ s : State, Inv s → ∃ t, step s = .next t

/-- R15: STATE changes only by a host write with a non-zero strobe while BUSY = 0, by the feed-forward, and at a reset
edge. -/
def Obligations.OnlyItsWritersChangeState : Prop :=
  ∀ s t : State, step s = .next t → t.chain ≠ s.chain →
    s.resets = true ∨ s.feedsForward = true ∨
    ∃ a, s.presented = some a ∧ a.we = true ∧ a.addr.toNat ≤ 0x00C ∧ a.addr.toNat % 4 = 0 ∧ a.wstrb ≠ 0#4 ∧
      s.busy = false

/-- R17: MSG changes only by a host write with a non-zero strobe while BUSY = 0, and at a reset edge; the cell itself never
writes it. -/
def Obligations.OnlyTheHostChangesMsg : Prop :=
  ∀ s t : State, step s = .next t → t.msg ≠ s.msg →
    s.resets = true ∨
    ∃ a, s.presented = some a ∧ a.we = true ∧ 0x040 ≤ a.addr.toNat ∧ a.addr.toNat ≤ 0x07C ∧ a.addr.toNat % 4 = 0 ∧
      a.wstrb ≠ 0#4 ∧ s.busy = false

/-- R23: CTRL changes only by a host write that enables its lane 0, and at a reset edge. -/
def Obligations.OnlyTheHostChangesControl : Prop :=
  ∀ s t : State, step s = .next t → (t.die, t.eie) ≠ (s.die, s.eie) →
    s.resets = true ∨
    ∃ a, s.presented = some a ∧ a.we = true ∧ a.addr = 0x018#10 ∧ a.wstrb.getLsbD 0 = true

/-- R123: the first error's code and offset, and ERROVF, stay through every step until an ACK or a reset edge. -/
def Obligations.FirstErrorSticks : Prop :=
  ∀ s t : State, step s = .next t → s.errcode ≠ 0#4 → s.resets = false →
    (∀ a, s.presented = some a → a.isCommand 2 = false) →
    t.errcode = s.errcode ∧ t.erraddr = s.erraddr ∧ (s.errovf = true → t.errovf = true)

/-- R22: DONE is set by the feed-forward alone, and cleared by the accept of a COMPRESS, by ACK and at a reset edge
alone. -/
def Obligations.DoneFollowsItsRule : Prop :=
  ∀ s t : State, step s = .next t →
    (s.done = false → t.done = true → s.feedsForward = true) ∧
    (s.done = true → t.done = false →
      s.resets = true ∨ ∃ a, s.presented = some a ∧ (a.isCommand 2 = true ∨ a.isCommand 1 = true ∧ s.busy = false))

/-- R95, R136: nothing but a COMPRESS starts a compression, and nothing but its feed-forward or a reset edge ends it. -/
def Obligations.BusyFollowsItsRule : Prop :=
  ∀ s t : State, step s = .next t →
    (s.busy = false → t.busy = true → ∃ a, s.presented = some a ∧ a.isCommand 1 = true) ∧
    (s.busy = true → t.busy = false → s.resets = true ∨ s.feedsForward = true)

/-- R95, R96: while BUSY = 1, no host access changes STATE, MSG, W, RC or BUSY. -/
def Obligations.HostAccessLeavesACompressionAlone : Prop :=
  ∀ (s : State) (a : Access), s.busy = true → ∃ t, hostStep a s = .next t ∧
    t.chain = s.chain ∧ t.msg = s.msg ∧ t.working = s.working ∧ t.rc = s.rc ∧ t.busy = true ∧
    (t.done = s.done ∨ a.isCommand 2 = true ∧ t.done = false)

/-- R21: nothing a host reads shows the progress of a compression. Two states that differ in W and RC alone answer every
access alike, the word read included, and a round changes nothing but W and RC. -/
def Obligations.NoProgressIsVisible : Prop :=
  (∀ (s t : State) (a : Access), sameButHidden s t →
    ∃ s' t', hostStep a s = .next s' ∧ hostStep a t = .next t' ∧ sameButHidden s' t' ∧ s'.rdata = t'.rdata ∧
      s'.irq = t'.irq) ∧
  (∀ (s : State) (i : BitVec 6), ∃ t, exec (.seqRound i) s = .next t ∧ sameButHidden s t)

/-- R98: what a COMPRESS starts does not depend on what W and RC held before the accept. -/
def Obligations.CompressIgnoresOldWorkingRegisters : Prop :=
  ∀ (s : State) (w : Working) (rc : BitVec 7), s.busy = false →
    exec .compress { s with working := w, rc := rc } = exec .compress s

/-- R126: irq is (DIE and DONE) or (EIE and ERRCODE not 0), in the bits that reads of CTRL and STATUS return. -/
def Obligations.IrqFollowsStatusAndControl : Prop :=
  ∀ s : State, ∃ t u, exec .rdStatus s = .next t ∧ exec .rdCtrl s = .next u ∧
    (s.irq = true ↔ u.rdata.toNat % 2 = 1 ∧ t.rdata.toNat / 2 % 2 = 1 ∨
      u.rdata.toNat / 2 % 2 = 1 ∧ t.rdata.toNat / 16 % 16 ≠ 0)

/-! ### Reset -/

/-- R29: the values right after reset, and irq; ID, KROM and SROM read their constants. (What W holds then is the model's
choice, log entry 3, and no part of this.) -/
def Obligations.ResetValues : Prop :=
  State.reset.chain = Vector.replicate 4 0 ∧ State.reset.msg = Vector.replicate 16 0 ∧
  State.reset.ctrlWord = 0 ∧ State.reset.statusWord = 0 ∧ State.reset.rc = 0 ∧ State.reset.irq = false ∧
  readsConstants State.reset

/-- R137: a rising edge with rst_n = 0, in any state and whatever access is presented: every element of the cell's state
takes its reset value (W is left open), the access has no effect but that a read returns 0, the sequencer does not step,
irq is 0, and ID, KROM and SROM read their constants. -/
def Obligations.ResetEdgeClearsTheCell : Prop :=
  ∀ (s : State) (p : Pins) (rest : List Stimulus), s.inputs = .clock p :: rest → p.rstN = false →
    ∃ t, step s = .next t ∧ t.chain = Vector.replicate 4 0 ∧ t.msg = Vector.replicate 16 0 ∧
      t.die = false ∧ t.eie = false ∧ t.busy = false ∧ t.done = false ∧ t.errcode = 0 ∧ t.errovf = false ∧
      t.erraddr = 0 ∧ t.rc = 0 ∧ t.irq = false ∧ t.inputs = rest ∧
      (p.valid = true → p.access.we = false → t.rdata = 0x00000000) ∧ readsConstants t

/-! ### Compression -/

/-- R97: where the invariant holds, the feed-forward leaves STATE = Compress of the STATE and MSG held. -/
def Obligations.FeedforwardLeavesCompress : Prop :=
  ∀ s : State, Inv s → s.busy = true → s.rc = 64#7 →
    ∃ t, exec .seqFeedforward s = .next t ∧ t.chain = compress s.chain s.msg ∧ t.msg = s.msg

/-- R95, R96, R97: from the accept of a COMPRESS, however host accesses of any kind and sequencer steps interleave, BUSY
stays 1 and STATE and MSG stay as they were until the 65th sequencer step, and that step leaves STATE = Compress of the
STATE and MSG at the accept, BUSY = 0 and DONE = 1. -/
def Obligations.CompressionUnderEveryInterleaving : Prop :=
  ∀ (s : State) (l rest : List Stimulus), s.busy = false →
    s.inputs = .host (writeOf 0x010 0x00000001 0b1111) :: (l ++ .sequencer :: rest) →
    (∀ x ∈ l, x.interleaved = true) → l.count .sequencer = 64 →
    (∀ n ≤ l.length, ∃ u, runSteps (n + 1) s = .next u ∧ u.busy = true ∧ u.done = false ∧ u.chain = s.chain ∧
      u.msg = s.msg) ∧
    ∃ t, runSteps (l.length + 2) s = .next t ∧ t.chain = compress s.chain s.msg ∧ t.msg = s.msg ∧ t.busy = false ∧
      t.done = true ∧ t.rc = 0 ∧ t.inputs = rest

/-- R95, R145: a compression that is left alone ends after the sequencer steps that are left of its 65, and not before.
That an empty schedule gives the sequencer every step is the model's (log entry 1). -/
def Obligations.UnattendedCompressionFinishes : Prop :=
  ∀ s : State, Inv s → s.busy = true → s.inputs = [] →
    (∀ n < Config.compressLatency - s.rc.toNat, ∃ u, runSteps n s = .next u ∧ u.busy = true) ∧
    ∃ t, runSteps (Config.compressLatency - s.rc.toNat) s = .next t ∧ t.busy = false ∧ t.done = true ∧
      t.chain = compress s.chain s.msg ∧ t.msg = s.msg

/-- R99, R100, R120: the host loads the blocks of a sequence one after the other, each with its COMPRESS and the 65
sequencer steps it takes, and STATE is then CompressSeq; for the empty sequence nothing happens. -/
def Obligations.BlocksThreadThroughState : Prop :=
  ∀ (blocks : List (Vector Word 16)) (s : State) (rest : List Stimulus), s.busy = false →
    s.inputs = blocks.flatMap blockStimuli ++ rest →
    ∃ t, runSteps (82 * blocks.length) s = .next t ∧ t.chain = compressSeq s.chain blocks ∧ t.busy = false ∧
      t.errcode = s.errcode ∧ t.inputs = rest

/-! ### The host's scripts -/

/-- R68, R120, R141: a host's turn at a wait reads STATUS and waits again while BUSY reads 1; at a wait for irq it does
nothing while irq is 0, and else reads STATUS and goes on if DONE reads 1; at an `expect` it reads, and stops the script
with failure unless the word is the one named. A script that has stopped presents nothing more. That a wait for irq waits
again where DONE reads 0 is the model's (log entry 18). -/
def Obligations.HostActsOnTheWordsItReads : Prop :=
  ∀ (r : ScriptRun) (rest : List HostOp), r.failed = false →
    (r.todo = .wait :: rest → ∃ q, scriptTurn .host r = .next q ∧ q.issued = r.issued ++ [readOf 0x014] ∧
      q.returned = r.returned ++ [r.cell.statusWord] ∧ q.cell = { r.cell with rdata := r.cell.statusWord } ∧
      q.failed = false ∧ q.todo = if r.cell.busy then .wait :: rest else rest) ∧
    (r.todo = .awaitIrq :: rest → r.cell.irq = false → scriptTurn .host r = .next r) ∧
    (r.todo = .awaitIrq :: rest → r.cell.irq = true → ∃ q, scriptTurn .host r = .next q ∧
      q.issued = r.issued ++ [readOf 0x014] ∧ q.returned = r.returned ++ [r.cell.statusWord] ∧
      q.cell = { r.cell with rdata := r.cell.statusWord } ∧
      q.failed = false ∧ q.todo = if r.cell.done then rest else .awaitIrq :: rest) ∧
    (∀ addr imm, r.todo = .expect addr imm :: rest → ∃ q, scriptTurn .host r = .next q ∧
      q.issued = r.issued ++ [readOf addr] ∧ q.returned = r.returned ++ [q.cell.rdata] ∧
      q.cell = afterRead r.cell addr ∧
      (q.cell.rdata = imm → q.failed = false ∧ q.todo = rest) ∧
      (q.cell.rdata ≠ imm → q.failed = true ∧ q.access = none ∧ scriptTurn .host q = .next q))

/-- R120: however the turns of the host and the sequencer fall, and whichever way the host waits for each block, a host
procedure that comes to its end has read back, and left in STATE, CompressSeq of the state it was given and its blocks, with
no error recorded on the way; for no blocks, the state it was given. It says so of runs that end; that the sequencer's steps
end each compression is R95's. How the host waits for irq is log entry 18. -/
def Obligations.HostProcedureComputesCompressSeq : Prop :=
  ∀ (a b c d : Word) (blocks : List (BlockBytes × WaitBy)) (turns : List Turn) (s : State) (r : ScriptRun), Inv s →
    runTurns turns (startScript (hostCompress a b c d blocks) s) = .next r → r.todo = [] →
    ∃ before, r.returned = before ++ r.cell.chain.toList ∧
      r.cell.chain = compressSeq #v[a, b, c, d] (blocks.map (fun p => parseBlock p.1)) ∧ r.cell.busy = false ∧
      r.failed = false ∧ (r.cell.errcode, r.cell.errovf, r.cell.erraddr) = (s.errcode, s.errovf, s.erraddr)

/-! ### The platform -/

/-- R134: a step of one cell leaves every other cell as it was. -/
def Obligations.CellsShareNothing : Prop :=
  ∀ (nCells : Nat) (p q : Platform nCells) (k j : Fin nCells), stepCell k p = .next q → j ≠ k → q[j] = p[j]

/-- R14: the window is the 1024 addresses from BASE_ADDR, wherever the platform puts it. -/
def Obligations.WindowIsTheAddressesFromItsBase : Prop :=
  ∀ (base sysAddr : Nat) (o : Offset), windowOffset base sysAddr = some o ↔ sysAddr = base + o.toNat
end

