-- ==== Sys2Proof/Laws/Decode.lean ====
section
/-! SUPPORT. The key table of R55: every key matches a row, an aligned key exactly one, and the decoder of a command
splits on the three legal words. -/

namespace Sys2Proof

/-- Every key matches a row of R55. -/
theorem busRows_total : ∀ key : BitVec 11, (busRows.find? (fun r => r.matches key)).isSome = true := by decide +kernel

/-- No two rows of R55 overlap but where row 1 takes the misaligned keys. -/
theorem busRows_disjoint : ∀ key : BitVec 11, key.extractLsb' 0 2 = 0#2 →
    (busRows.filter (fun r => r.matches key)).length = 1 := by decide +kernel

/-- The command decoder splits as R102 does. -/
theorem decodeCmd_cases (word : Word) (strobe : Strobe) :
    decodeCmd word strobe = .cmdIllegal word strobe ∨ decodeCmd word strobe = .nop ∨
    decodeCmd word strobe = .compress ∨ decodeCmd word strobe = .ack := by
  unfold decodeCmd
  split
  · exact .inl rfl
  · split
    · exact .inr (.inl rfl)
    · split
      · exact .inr (.inr (.inl rfl))
      · exact .inr (.inr (.inr rfl))

/-- The sequencer's decoder has three outcomes (R63). -/
theorem decodeSeq_cases (rc : BitVec 7) :
    (rc.toNat < 64 ∧ decodeSeq rc = .ok (.seqRound (rc.extractLsb' 0 6))) ∨
    (rc = 64#7 ∧ decodeSeq rc = .ok .seqFeedforward) ∨
    (64 < rc.toNat ∧ decodeSeq rc = .error .rcUnreachable) := by
  by_cases h : rc.toNat < 64
  · exact .inl ⟨h, by simp [decodeSeq, h]⟩
  · by_cases h' : rc = 64#7
    · exact .inr (.inl ⟨h', by subst h'; rfl⟩)
    · refine .inr (.inr ⟨?_, by rw [decodeSeq, if_neg h, if_neg h']⟩)
      have : rc.toNat ≠ 64 := fun e => h' (BitVec.eq_of_toNat_eq (by simpa using e))
      omega

end Sys2Proof
end

