-- ==== Sys2Proof/Laws/State.lean ====
section
/-! SUPPORT. One lemma per field per named update of the state, so that no later proof unfolds a record update. -/

namespace Sys2Proof.Machine

variable (s : State)

@[simp] theorem State.setChain_chain (v : Vector Word 4) : (s.setChain v).chain = v := rfl
@[simp] theorem State.setChain_msg (v : Vector Word 4) : (s.setChain v).msg = s.msg := rfl
@[simp] theorem State.setChain_die (v : Vector Word 4) : (s.setChain v).die = s.die := rfl
@[simp] theorem State.setChain_eie (v : Vector Word 4) : (s.setChain v).eie = s.eie := rfl
@[simp] theorem State.setChain_busy (v : Vector Word 4) : (s.setChain v).busy = s.busy := rfl
@[simp] theorem State.setChain_done (v : Vector Word 4) : (s.setChain v).done = s.done := rfl
@[simp] theorem State.setChain_errcode (v : Vector Word 4) : (s.setChain v).errcode = s.errcode := rfl
@[simp] theorem State.setChain_errovf (v : Vector Word 4) : (s.setChain v).errovf = s.errovf := rfl
@[simp] theorem State.setChain_erraddr (v : Vector Word 4) : (s.setChain v).erraddr = s.erraddr := rfl
@[simp] theorem State.setChain_working (v : Vector Word 4) : (s.setChain v).working = s.working := rfl
@[simp] theorem State.setChain_rc (v : Vector Word 4) : (s.setChain v).rc = s.rc := rfl
@[simp] theorem State.setChain_rdata (v : Vector Word 4) : (s.setChain v).rdata = s.rdata := rfl
@[simp] theorem State.setChain_inputs (v : Vector Word 4) : (s.setChain v).inputs = s.inputs := rfl
@[simp] theorem State.setChain_draws (v : Vector Word 4) : (s.setChain v).draws = s.draws := rfl

@[simp] theorem State.setMsg_chain (v : Vector Word 16) : (s.setMsg v).chain = s.chain := rfl
@[simp] theorem State.setMsg_msg (v : Vector Word 16) : (s.setMsg v).msg = v := rfl
@[simp] theorem State.setMsg_die (v : Vector Word 16) : (s.setMsg v).die = s.die := rfl
@[simp] theorem State.setMsg_eie (v : Vector Word 16) : (s.setMsg v).eie = s.eie := rfl
@[simp] theorem State.setMsg_busy (v : Vector Word 16) : (s.setMsg v).busy = s.busy := rfl
@[simp] theorem State.setMsg_done (v : Vector Word 16) : (s.setMsg v).done = s.done := rfl
@[simp] theorem State.setMsg_errcode (v : Vector Word 16) : (s.setMsg v).errcode = s.errcode := rfl
@[simp] theorem State.setMsg_errovf (v : Vector Word 16) : (s.setMsg v).errovf = s.errovf := rfl
@[simp] theorem State.setMsg_erraddr (v : Vector Word 16) : (s.setMsg v).erraddr = s.erraddr := rfl
@[simp] theorem State.setMsg_working (v : Vector Word 16) : (s.setMsg v).working = s.working := rfl
@[simp] theorem State.setMsg_rc (v : Vector Word 16) : (s.setMsg v).rc = s.rc := rfl
@[simp] theorem State.setMsg_rdata (v : Vector Word 16) : (s.setMsg v).rdata = s.rdata := rfl
@[simp] theorem State.setMsg_inputs (v : Vector Word 16) : (s.setMsg v).inputs = s.inputs := rfl
@[simp] theorem State.setMsg_draws (v : Vector Word 16) : (s.setMsg v).draws = s.draws := rfl

@[simp] theorem State.setCtrl_chain (d e : Bool) : (s.setCtrl d e).chain = s.chain := rfl
@[simp] theorem State.setCtrl_msg (d e : Bool) : (s.setCtrl d e).msg = s.msg := rfl
@[simp] theorem State.setCtrl_die (d e : Bool) : (s.setCtrl d e).die = d := rfl
@[simp] theorem State.setCtrl_eie (d e : Bool) : (s.setCtrl d e).eie = e := rfl
@[simp] theorem State.setCtrl_busy (d e : Bool) : (s.setCtrl d e).busy = s.busy := rfl
@[simp] theorem State.setCtrl_done (d e : Bool) : (s.setCtrl d e).done = s.done := rfl
@[simp] theorem State.setCtrl_errcode (d e : Bool) : (s.setCtrl d e).errcode = s.errcode := rfl
@[simp] theorem State.setCtrl_errovf (d e : Bool) : (s.setCtrl d e).errovf = s.errovf := rfl
@[simp] theorem State.setCtrl_erraddr (d e : Bool) : (s.setCtrl d e).erraddr = s.erraddr := rfl
@[simp] theorem State.setCtrl_working (d e : Bool) : (s.setCtrl d e).working = s.working := rfl
@[simp] theorem State.setCtrl_rc (d e : Bool) : (s.setCtrl d e).rc = s.rc := rfl
@[simp] theorem State.setCtrl_rdata (d e : Bool) : (s.setCtrl d e).rdata = s.rdata := rfl
@[simp] theorem State.setCtrl_inputs (d e : Bool) : (s.setCtrl d e).inputs = s.inputs := rfl
@[simp] theorem State.setCtrl_draws (d e : Bool) : (s.setCtrl d e).draws = s.draws := rfl

@[simp] theorem State.setRun_chain (b d : Bool) : (s.setRun b d).chain = s.chain := rfl
@[simp] theorem State.setRun_msg (b d : Bool) : (s.setRun b d).msg = s.msg := rfl
@[simp] theorem State.setRun_die (b d : Bool) : (s.setRun b d).die = s.die := rfl
@[simp] theorem State.setRun_eie (b d : Bool) : (s.setRun b d).eie = s.eie := rfl
@[simp] theorem State.setRun_busy (b d : Bool) : (s.setRun b d).busy = b := rfl
@[simp] theorem State.setRun_done (b d : Bool) : (s.setRun b d).done = d := rfl
@[simp] theorem State.setRun_errcode (b d : Bool) : (s.setRun b d).errcode = s.errcode := rfl
@[simp] theorem State.setRun_errovf (b d : Bool) : (s.setRun b d).errovf = s.errovf := rfl
@[simp] theorem State.setRun_erraddr (b d : Bool) : (s.setRun b d).erraddr = s.erraddr := rfl
@[simp] theorem State.setRun_working (b d : Bool) : (s.setRun b d).working = s.working := rfl
@[simp] theorem State.setRun_rc (b d : Bool) : (s.setRun b d).rc = s.rc := rfl
@[simp] theorem State.setRun_rdata (b d : Bool) : (s.setRun b d).rdata = s.rdata := rfl
@[simp] theorem State.setRun_inputs (b d : Bool) : (s.setRun b d).inputs = s.inputs := rfl
@[simp] theorem State.setRun_draws (b d : Bool) : (s.setRun b d).draws = s.draws := rfl

@[simp] theorem State.setError_chain (c : BitVec 4) (o : Bool) (a : Offset) : (s.setError c o a).chain = s.chain := rfl
@[simp] theorem State.setError_msg (c : BitVec 4) (o : Bool) (a : Offset) : (s.setError c o a).msg = s.msg := rfl
@[simp] theorem State.setError_die (c : BitVec 4) (o : Bool) (a : Offset) : (s.setError c o a).die = s.die := rfl
@[simp] theorem State.setError_eie (c : BitVec 4) (o : Bool) (a : Offset) : (s.setError c o a).eie = s.eie := rfl
@[simp] theorem State.setError_busy (c : BitVec 4) (o : Bool) (a : Offset) : (s.setError c o a).busy = s.busy := rfl
@[simp] theorem State.setError_done (c : BitVec 4) (o : Bool) (a : Offset) : (s.setError c o a).done = s.done := rfl
@[simp] theorem State.setError_errcode (c : BitVec 4) (o : Bool) (a : Offset) : (s.setError c o a).errcode = c := rfl
@[simp] theorem State.setError_errovf (c : BitVec 4) (o : Bool) (a : Offset) : (s.setError c o a).errovf = o := rfl
@[simp] theorem State.setError_erraddr (c : BitVec 4) (o : Bool) (a : Offset) : (s.setError c o a).erraddr = a := rfl
@[simp] theorem State.setError_working (c : BitVec 4) (o : Bool) (a : Offset) : (s.setError c o a).working = s.working := rfl
@[simp] theorem State.setError_rc (c : BitVec 4) (o : Bool) (a : Offset) : (s.setError c o a).rc = s.rc := rfl
@[simp] theorem State.setError_rdata (c : BitVec 4) (o : Bool) (a : Offset) : (s.setError c o a).rdata = s.rdata := rfl
@[simp] theorem State.setError_inputs (c : BitVec 4) (o : Bool) (a : Offset) : (s.setError c o a).inputs = s.inputs := rfl
@[simp] theorem State.setError_draws (c : BitVec 4) (o : Bool) (a : Offset) : (s.setError c o a).draws = s.draws := rfl

@[simp] theorem State.setWorking_chain (w : Working) : (s.setWorking w).chain = s.chain := rfl
@[simp] theorem State.setWorking_msg (w : Working) : (s.setWorking w).msg = s.msg := rfl
@[simp] theorem State.setWorking_die (w : Working) : (s.setWorking w).die = s.die := rfl
@[simp] theorem State.setWorking_eie (w : Working) : (s.setWorking w).eie = s.eie := rfl
@[simp] theorem State.setWorking_busy (w : Working) : (s.setWorking w).busy = s.busy := rfl
@[simp] theorem State.setWorking_done (w : Working) : (s.setWorking w).done = s.done := rfl
@[simp] theorem State.setWorking_errcode (w : Working) : (s.setWorking w).errcode = s.errcode := rfl
@[simp] theorem State.setWorking_errovf (w : Working) : (s.setWorking w).errovf = s.errovf := rfl
@[simp] theorem State.setWorking_erraddr (w : Working) : (s.setWorking w).erraddr = s.erraddr := rfl
@[simp] theorem State.setWorking_working (w : Working) : (s.setWorking w).working = w := rfl
@[simp] theorem State.setWorking_rc (w : Working) : (s.setWorking w).rc = s.rc := rfl
@[simp] theorem State.setWorking_rdata (w : Working) : (s.setWorking w).rdata = s.rdata := rfl
@[simp] theorem State.setWorking_inputs (w : Working) : (s.setWorking w).inputs = s.inputs := rfl
@[simp] theorem State.setWorking_draws (w : Working) : (s.setWorking w).draws = s.draws := rfl

@[simp] theorem State.setRc_chain (r : BitVec 7) : (s.setRc r).chain = s.chain := rfl
@[simp] theorem State.setRc_msg (r : BitVec 7) : (s.setRc r).msg = s.msg := rfl
@[simp] theorem State.setRc_die (r : BitVec 7) : (s.setRc r).die = s.die := rfl
@[simp] theorem State.setRc_eie (r : BitVec 7) : (s.setRc r).eie = s.eie := rfl
@[simp] theorem State.setRc_busy (r : BitVec 7) : (s.setRc r).busy = s.busy := rfl
@[simp] theorem State.setRc_done (r : BitVec 7) : (s.setRc r).done = s.done := rfl
@[simp] theorem State.setRc_errcode (r : BitVec 7) : (s.setRc r).errcode = s.errcode := rfl
@[simp] theorem State.setRc_errovf (r : BitVec 7) : (s.setRc r).errovf = s.errovf := rfl
@[simp] theorem State.setRc_erraddr (r : BitVec 7) : (s.setRc r).erraddr = s.erraddr := rfl
@[simp] theorem State.setRc_working (r : BitVec 7) : (s.setRc r).working = s.working := rfl
@[simp] theorem State.setRc_rc (r : BitVec 7) : (s.setRc r).rc = r := rfl
@[simp] theorem State.setRc_rdata (r : BitVec 7) : (s.setRc r).rdata = s.rdata := rfl
@[simp] theorem State.setRc_inputs (r : BitVec 7) : (s.setRc r).inputs = s.inputs := rfl
@[simp] theorem State.setRc_draws (r : BitVec 7) : (s.setRc r).draws = s.draws := rfl

@[simp] theorem State.setRdata_chain (v : Word) : (s.setRdata v).chain = s.chain := rfl
@[simp] theorem State.setRdata_msg (v : Word) : (s.setRdata v).msg = s.msg := rfl
@[simp] theorem State.setRdata_die (v : Word) : (s.setRdata v).die = s.die := rfl
@[simp] theorem State.setRdata_eie (v : Word) : (s.setRdata v).eie = s.eie := rfl
@[simp] theorem State.setRdata_busy (v : Word) : (s.setRdata v).busy = s.busy := rfl
@[simp] theorem State.setRdata_done (v : Word) : (s.setRdata v).done = s.done := rfl
@[simp] theorem State.setRdata_errcode (v : Word) : (s.setRdata v).errcode = s.errcode := rfl
@[simp] theorem State.setRdata_errovf (v : Word) : (s.setRdata v).errovf = s.errovf := rfl
@[simp] theorem State.setRdata_erraddr (v : Word) : (s.setRdata v).erraddr = s.erraddr := rfl
@[simp] theorem State.setRdata_working (v : Word) : (s.setRdata v).working = s.working := rfl
@[simp] theorem State.setRdata_rc (v : Word) : (s.setRdata v).rc = s.rc := rfl
@[simp] theorem State.setRdata_rdata (v : Word) : (s.setRdata v).rdata = v := rfl
@[simp] theorem State.setRdata_inputs (v : Word) : (s.setRdata v).inputs = s.inputs := rfl
@[simp] theorem State.setRdata_draws (v : Word) : (s.setRdata v).draws = s.draws := rfl

@[simp] theorem State.setInputs_chain (l : List Stimulus) : (s.setInputs l).chain = s.chain := rfl
@[simp] theorem State.setInputs_msg (l : List Stimulus) : (s.setInputs l).msg = s.msg := rfl
@[simp] theorem State.setInputs_die (l : List Stimulus) : (s.setInputs l).die = s.die := rfl
@[simp] theorem State.setInputs_eie (l : List Stimulus) : (s.setInputs l).eie = s.eie := rfl
@[simp] theorem State.setInputs_busy (l : List Stimulus) : (s.setInputs l).busy = s.busy := rfl
@[simp] theorem State.setInputs_done (l : List Stimulus) : (s.setInputs l).done = s.done := rfl
@[simp] theorem State.setInputs_errcode (l : List Stimulus) : (s.setInputs l).errcode = s.errcode := rfl
@[simp] theorem State.setInputs_errovf (l : List Stimulus) : (s.setInputs l).errovf = s.errovf := rfl
@[simp] theorem State.setInputs_erraddr (l : List Stimulus) : (s.setInputs l).erraddr = s.erraddr := rfl
@[simp] theorem State.setInputs_working (l : List Stimulus) : (s.setInputs l).working = s.working := rfl
@[simp] theorem State.setInputs_rc (l : List Stimulus) : (s.setInputs l).rc = s.rc := rfl
@[simp] theorem State.setInputs_rdata (l : List Stimulus) : (s.setInputs l).rdata = s.rdata := rfl
@[simp] theorem State.setInputs_inputs (l : List Stimulus) : (s.setInputs l).inputs = l := rfl
@[simp] theorem State.setInputs_draws (l : List Stimulus) : (s.setInputs l).draws = s.draws := rfl

@[simp] theorem State.setDraws_chain (n : Nat) : (s.setDraws n).chain = s.chain := rfl
@[simp] theorem State.setDraws_msg (n : Nat) : (s.setDraws n).msg = s.msg := rfl
@[simp] theorem State.setDraws_die (n : Nat) : (s.setDraws n).die = s.die := rfl
@[simp] theorem State.setDraws_eie (n : Nat) : (s.setDraws n).eie = s.eie := rfl
@[simp] theorem State.setDraws_busy (n : Nat) : (s.setDraws n).busy = s.busy := rfl
@[simp] theorem State.setDraws_done (n : Nat) : (s.setDraws n).done = s.done := rfl
@[simp] theorem State.setDraws_errcode (n : Nat) : (s.setDraws n).errcode = s.errcode := rfl
@[simp] theorem State.setDraws_errovf (n : Nat) : (s.setDraws n).errovf = s.errovf := rfl
@[simp] theorem State.setDraws_erraddr (n : Nat) : (s.setDraws n).erraddr = s.erraddr := rfl
@[simp] theorem State.setDraws_working (n : Nat) : (s.setDraws n).working = s.working := rfl
@[simp] theorem State.setDraws_rc (n : Nat) : (s.setDraws n).rc = s.rc := rfl
@[simp] theorem State.setDraws_rdata (n : Nat) : (s.setDraws n).rdata = s.rdata := rfl
@[simp] theorem State.setDraws_inputs (n : Nat) : (s.setDraws n).inputs = s.inputs := rfl
@[simp] theorem State.setDraws_draws (n : Nat) : (s.setDraws n).draws = n := rfl

@[simp] theorem State.setInputs_self : s.setInputs s.inputs = s := rfl
@[simp] theorem State.setInputs_setInputs (l m : List Stimulus) : (s.setInputs l).setInputs m = s.setInputs m := rfl

end Sys2Proof.Machine
end

