-- ==== Sys2Proof/Laws/Ops.lean ====
section
/-! SUPPORT. What each shared operation can do, said once: operand access, the lanes of a write, the recording of an error,
the guarded writes, the acknowledgement and the accept. -/

namespace Sys2Proof.Machine

/-! ### Operands -/

theorem State.chainWord_setChainWord (s : State) (n m : BitVec 2) (v : Word) :
    (s.setChainWord n v).chainWord m = if n = m then v else s.chainWord m := by
  simp only [State.chainWord, State.setChainWord, State.setChain_chain, Vector.getElem_set, BitVec.toNat_inj]

theorem State.msgWord_setMsgWord (s : State) (j k : BitVec 4) (v : Word) :
    (s.setMsgWord j v).msgWord k = if j = k then v else s.msgWord k := by
  simp only [State.msgWord, State.setMsgWord, State.setMsg_msg, Vector.getElem_set, BitVec.toNat_inj]

@[simp] theorem State.msgWord_setChainWord (s : State) (n : BitVec 2) (v : Word) (j : BitVec 4) :
    (s.setChainWord n v).msgWord j = s.msgWord j := rfl

@[simp] theorem State.chainWord_setMsgWord (s : State) (j : BitVec 4) (v : Word) (n : BitVec 2) :
    (s.setMsgWord j v).chainWord n = s.chainWord n := rfl

/-- A bit of a byte lane is the word's bit eight lanes up. -/
theorem lane_getLsbD (w : Word) (k i : Nat) : (lane w k).getLsbD i = (decide (i < 8) && w.getLsbD (8 * k + i)) := by
  simp [lane, BitVec.getLsbD_extractLsb']

/-- The lanes of a word put together from four bytes. -/
theorem lane_append (b0 b1 b2 b3 : Byte) (k : Nat) (hk : k < 4) :
    lane (b3 ++ b2 ++ b1 ++ b0) k = if k = 0 then b0 else if k = 1 then b1 else if k = 2 then b2 else b3 := by
  have h : k = 0 ∨ k = 1 ∨ k = 2 ∨ k = 3 := by omega
  apply BitVec.eq_of_getLsbD_eq
  intro i hi
  obtain rfl | rfl | rfl | rfl := h <;>
    rw [lane_getLsbD] <;> simp only [BitVec.getLsbD_append, hi, decide_true, Bool.true_and]
  · simp
    intro; omega
  · simp [show ¬ 8 * 1 + i < 8 by omega]
    intro; omega
  · simp [show ¬ 8 * 2 + i < 8 by omega, show ¬ 8 * 2 + i - 8 < 8 by omega, show 8 * 2 + i - 8 - 8 < 8 by omega]
    congr 1; omega
  · simp [show ¬ 8 * 3 + i < 8 by omega, show ¬ 8 * 3 + i - 8 < 8 by omega, show ¬ 8 * 3 + i - 8 - 8 < 8 by omega]
    congr 1; omega

/-- Each lane of a merged word is the data's or the register's, as the strobe says (R36). -/
theorem lane_mergeLanes (old wdata : Word) (wstrb : Strobe) (k : Nat) (hk : k < 4) :
    lane (mergeLanes old wdata wstrb) k = mergeLane old wdata wstrb k := by
  rw [mergeLanes, lane_append _ _ _ _ k hk]
  have h : k = 0 ∨ k = 1 ∨ k = 2 ∨ k = 3 := by omega
  obtain rfl | rfl | rfl | rfl := h <;> rfl

/-- A word is determined by its four lanes. -/
theorem word_eq_of_lanes (v w : Word) (h : ∀ k < 4, lane v k = lane w k) : v = w := by
  apply BitVec.eq_of_getLsbD_eq
  intro i hi
  have hk := congrArg (fun b : Byte => b.getLsbD (i % 8)) (h (i / 8) (by omega))
  simp only [lane_getLsbD, Nat.mod_lt _ (show 0 < 8 by decide), decide_true, Bool.true_and, Nat.div_add_mod] at hk
  exact hk

/-! ### Errors -/

/-- Recording an error changes the error fields alone. -/
theorem raiseError_eq_setError (e : ErrCode) (addr : Offset) (s : State) :
    ∃ code ovf a, raiseError e addr s = s.setError code ovf a ∧
      (s.errcode = 0#4 → code = e.code ∧ ovf = s.errovf ∧ a = addr) ∧
      (s.errcode ≠ 0#4 → code = s.errcode ∧ ovf = true ∧ a = s.erraddr) := by
  by_cases h : s.errcode = 0#4
  · exact ⟨e.code, s.errovf, addr, by simp [raiseError, h], fun _ => ⟨rfl, rfl, rfl⟩, fun hn => absurd h hn⟩
  · exact ⟨s.errcode, true, s.erraddr, by simp [raiseError, h], fun hn => absurd hn h, fun _ => ⟨rfl, rfl, rfl⟩⟩

theorem raiseError_first (e : ErrCode) (addr : Offset) (s : State) (h : s.errcode = 0#4) :
    raiseError e addr s = s.setError e.code s.errovf addr := by simp [raiseError, h]

theorem raiseError_later (e : ErrCode) (addr : Offset) (s : State) (h : s.errcode ≠ 0#4) :
    raiseError e addr s = s.setError s.errcode true s.erraddr := by simp [raiseError, h]

@[simp] theorem raiseError_chain (e : ErrCode) (addr : Offset) (s : State) : (raiseError e addr s).chain = s.chain := by
  unfold raiseError; split <;> rfl

@[simp] theorem raiseError_msg (e : ErrCode) (addr : Offset) (s : State) : (raiseError e addr s).msg = s.msg := by
  unfold raiseError; split <;> rfl

@[simp] theorem raiseError_die (e : ErrCode) (addr : Offset) (s : State) : (raiseError e addr s).die = s.die := by
  unfold raiseError; split <;> rfl

@[simp] theorem raiseError_eie (e : ErrCode) (addr : Offset) (s : State) : (raiseError e addr s).eie = s.eie := by
  unfold raiseError; split <;> rfl

@[simp] theorem raiseError_busy (e : ErrCode) (addr : Offset) (s : State) : (raiseError e addr s).busy = s.busy := by
  unfold raiseError; split <;> rfl

@[simp] theorem raiseError_done (e : ErrCode) (addr : Offset) (s : State) : (raiseError e addr s).done = s.done := by
  unfold raiseError; split <;> rfl

@[simp] theorem raiseError_working (e : ErrCode) (addr : Offset) (s : State) : (raiseError e addr s).working = s.working := by
  unfold raiseError; split <;> rfl

@[simp] theorem raiseError_rc (e : ErrCode) (addr : Offset) (s : State) : (raiseError e addr s).rc = s.rc := by
  unfold raiseError; split <;> rfl

@[simp] theorem raiseError_rdata (e : ErrCode) (addr : Offset) (s : State) : (raiseError e addr s).rdata = s.rdata := by
  unfold raiseError; split <;> rfl

@[simp] theorem raiseError_inputs (e : ErrCode) (addr : Offset) (s : State) : (raiseError e addr s).inputs = s.inputs := by
  unfold raiseError; split <;> rfl

@[simp] theorem raiseError_draws (e : ErrCode) (addr : Offset) (s : State) : (raiseError e addr s).draws = s.draws := by
  unfold raiseError; split <;> rfl

/-- A code of an interface error is 1 to 5, never 0. -/
theorem ErrCode.code_ne_zero (e : ErrCode) : e.code ≠ 0#4 := by cases e <;> decide

/-- A guarded write does one of three things. -/
theorem guardedWrite_cases (wstrb : Strobe) (addr : Offset) (write : State → State) (s : State) :
    (wstrb = 0#4 ∧ guardedWrite wstrb addr write s = s) ∨
    (wstrb ≠ 0#4 ∧ s.busy = true ∧ guardedWrite wstrb addr write s = raiseError .writeWhileBusy addr s) ∨
    (wstrb ≠ 0#4 ∧ s.busy = false ∧ guardedWrite wstrb addr write s = write s) := by
  by_cases h : wstrb = 0#4
  · exact .inl ⟨h, by simp [guardedWrite, h]⟩
  · cases hb : s.busy
    · exact .inr (.inr ⟨h, rfl, by simp [guardedWrite, h, hb]⟩)
    · exact .inr (.inl ⟨h, rfl, by simp [guardedWrite, h, hb]⟩)

/-- A COMPRESS is accepted or rejected. -/
theorem startCompress_cases (s : State) :
    (s.busy = false ∧ startCompress s = accept s) ∨
    (s.busy = true ∧ startCompress s = raiseError .cmdWhileBusy cmdOffset s) := by
  cases hb : s.busy
  · exact .inl ⟨rfl, by simp [startCompress, hb]⟩
  · exact .inr ⟨rfl, by simp [startCompress, hb]⟩

/-- A command write does what the decoded command does (R102). -/
theorem execWrCmd_cases (wdata : Word) (wstrb : Strobe) (s : State) :
    execWrCmd wdata wstrb s = .next (rejectCommand s) ∨ execWrCmd wdata wstrb s = .next s ∨
    execWrCmd wdata wstrb s = .next (startCompress s) ∨ execWrCmd wdata wstrb s = .next (acknowledge s) := by
  unfold execWrCmd
  split
  · exact .inl rfl
  · split
    · exact .inr (.inl rfl)
    · split
      · exact .inr (.inr (.inl rfl))
      · exact .inr (.inr (.inr rfl))

end Sys2Proof.Machine
end

