-- ==== Sys2Proof/Laws/PerInstr.lean ====
section
/-! SUPPORT. The encoder against spec/opcode_table.json, per instruction: the code of a well-formed instruction lies in its
mnemonic's row, as the table's own mask and match give it. -/

namespace Sys2Proof.Laws.TableRow

/-- A code as the table numbers its bits: the 11-bit key of an access, a command word, an SROM word, or RC. -/
def number : Code → Nat
  | .bus a => a.key.toNat
  | .cmd word _ => word.toNat
  | .srom word => word.toNat
  | .seq rc => rc.toNat

/-- The (mask, match) pairs of the instruction's rows in spec/opcode_table.json. CMD.ILLEGAL has no mask: its row is the
complement of the other three. -/
def rows : Instr → List (Nat × Nat)
  | .accMisaligned _ _ => [(0x003, 0x001), (0x003, 0x002), (0x003, 0x003)]
  | .rdState _ => [(0x7F3, 0x000)]
  | .wrState _ _ _ => [(0x7F3, 0x400)]
  | .rdCmd => [(0x7FF, 0x010)]
  | .wrCmd _ _ => [(0x7FF, 0x410)]
  | .rdStatus => [(0x7FF, 0x014)]
  | .wrStatus _ _ => [(0x7FF, 0x414)]
  | .rdCtrl => [(0x7FF, 0x018)]
  | .wrCtrl _ _ => [(0x7FF, 0x418)]
  | .rdId => [(0x7FF, 0x01C)]
  | .wrId _ _ => [(0x7FF, 0x41C)]
  | .accUnmapped _ _ => [(0x3E0, 0x020), (0x380, 0x080), (0x300, 0x300)]
  | .rdMsg _ => [(0x7C3, 0x040)]
  | .wrMsg _ _ _ => [(0x7C3, 0x440)]
  | .rdKrom _ => [(0x703, 0x100)]
  | .wrKrom _ _ _ => [(0x703, 0x500)]
  | .rdSrom _ => [(0x703, 0x200)]
  | .wrSrom _ _ _ => [(0x703, 0x600)]
  | .nop => [(0xFFFFFFFF, 0x00000000)]
  | .compress => [(0xFFFFFFFF, 0x00000001)]
  | .ack => [(0xFFFFFFFF, 0x00000002)]
  | .cmdIllegal _ _ => []
  | .roundF _ _ => [(0x00000003, 0x00000000)]
  | .roundG _ _ => [(0x00000003, 0x00000001)]
  | .roundH _ _ => [(0x00000003, 0x00000002)]
  | .roundI _ _ => [(0x00000003, 0x00000003)]
  | .seqRound _ => [(0x40, 0x00)]
  | .seqFeedforward => [(0x7F, 0x40)]

/-- The code is one of CMD.ILLEGAL's row: a word other than the three, or a strobe other than 0xF. -/
def illegalRow : Code → Prop
  | .cmd word strobe => word.toNat ∉ [0x00000000, 0x00000001, 0x00000002] ∨ strobe.toNat ≠ 0xF
  | .bus _ | .srom _ | .seq _ => False

/-- The encoding of a well-formed instruction is in the instruction's format and in one of its rows of the table. -/
def Statement (i : Instr) : Prop :=
  i.wf = true → (encode i).format = i.format ∧
    (illegalRow (encode i) ∨ ∃ r ∈ rows i, number (encode i) &&& r.1 = r.2)

/-- A write access lies in the row its offset lies in, whatever its data and strobe. -/
theorem write_in_row {i : Instr} {addr : Offset} {wdata : Word} {wstrb : Strobe} {r : Nat × Nat}
    (he : encode i = .bus (writeOf addr wdata wstrb)) (hf : i.format = .bus) (hr : r ∈ rows i)
    (hk : (1#1 ++ addr).toNat &&& r.1 = r.2) : Statement i :=
  fun _ => ⟨by rw [he, hf]; rfl, .inr ⟨r, hr, by rw [he]; exact hk⟩⟩

theorem accMisaligned (we : Bool) (addr : Offset) : Statement (.accMisaligned we addr) := by
  have key : ∀ (we : Bool) (addr : BitVec 10), (!addr.toNat % 4 == 0) = true →
      ∃ r ∈ rows (.accMisaligned we addr), (BitVec.ofBool we ++ addr).toNat &&& r.1 = r.2 := by decide +kernel
  exact fun h => ⟨rfl, .inr (key we addr h)⟩
theorem rdState (n : BitVec 2) : Statement (.rdState n) := fun _ => ⟨rfl, .inr (by revert n; decide)⟩
theorem wrState (n : BitVec 2) (wdata : Word) (wstrb : Strobe) : Statement (.wrState n wdata wstrb) :=
  write_in_row rfl rfl (List.mem_singleton.mpr rfl)
    ((by decide : ∀ n : BitVec 2, (1#1 ++ stateOffset n).toNat &&& 0x7F3 = 0x400) n)
theorem rdCmd : Statement .rdCmd := fun _ => ⟨rfl, .inr (by decide)⟩
theorem wrCmd (wdata : Word) (wstrb : Strobe) : Statement (.wrCmd wdata wstrb) :=
  write_in_row rfl rfl (List.mem_singleton.mpr rfl) (by decide)
theorem rdStatus : Statement .rdStatus := fun _ => ⟨rfl, .inr (by decide)⟩
theorem wrStatus (wdata : Word) (wstrb : Strobe) : Statement (.wrStatus wdata wstrb) :=
  write_in_row rfl rfl (List.mem_singleton.mpr rfl) (by decide)
theorem rdCtrl : Statement .rdCtrl := fun _ => ⟨rfl, .inr (by decide)⟩
theorem wrCtrl (wdata : Word) (wstrb : Strobe) : Statement (.wrCtrl wdata wstrb) :=
  write_in_row rfl rfl (List.mem_singleton.mpr rfl) (by decide)
theorem rdId : Statement .rdId := fun _ => ⟨rfl, .inr (by decide)⟩
theorem wrId (wdata : Word) (wstrb : Strobe) : Statement (.wrId wdata wstrb) :=
  write_in_row rfl rfl (List.mem_singleton.mpr rfl) (by decide)
theorem accUnmapped (we : Bool) (addr : Offset) : Statement (.accUnmapped we addr) := by
  have key : ∀ (we : Bool) (addr : BitVec 10), (Instr.accUnmapped we addr).wf = true →
      ∃ r ∈ rows (.accUnmapped we addr), (BitVec.ofBool we ++ addr).toNat &&& r.1 = r.2 := by decide +kernel
  exact fun h => ⟨rfl, .inr (key we addr h)⟩
theorem rdMsg (j : BitVec 4) : Statement (.rdMsg j) := fun _ => ⟨rfl, .inr (by revert j; decide)⟩
theorem wrMsg (j : BitVec 4) (wdata : Word) (wstrb : Strobe) : Statement (.wrMsg j wdata wstrb) :=
  write_in_row rfl rfl (List.mem_singleton.mpr rfl)
    ((by decide : ∀ j : BitVec 4, (1#1 ++ msgOffset j).toNat &&& 0x7C3 = 0x440) j)
theorem rdKrom (i : BitVec 6) : Statement (.rdKrom i) := fun _ => ⟨rfl, .inr (by revert i; decide)⟩
theorem wrKrom (i : BitVec 6) (wdata : Word) (wstrb : Strobe) : Statement (.wrKrom i wdata wstrb) :=
  write_in_row rfl rfl (List.mem_singleton.mpr rfl)
    ((by decide : ∀ i : BitVec 6, (1#1 ++ kromOffset i).toNat &&& 0x703 = 0x500) i)
theorem rdSrom (i : BitVec 6) : Statement (.rdSrom i) := fun _ => ⟨rfl, .inr (by revert i; decide)⟩
theorem wrSrom (i : BitVec 6) (wdata : Word) (wstrb : Strobe) : Statement (.wrSrom i wdata wstrb) :=
  write_in_row rfl rfl (List.mem_singleton.mpr rfl)
    ((by decide : ∀ i : BitVec 6, (1#1 ++ sromOffset i).toNat &&& 0x703 = 0x600) i)
theorem nop : Statement .nop := fun _ => ⟨rfl, .inr (by decide)⟩
theorem compress : Statement .compress := fun _ => ⟨rfl, .inr (by decide)⟩
theorem ack : Statement .ack := fun _ => ⟨rfl, .inr (by decide)⟩
theorem cmdIllegal (word : Word) (strobe : Strobe) : Statement (.cmdIllegal word strobe) := by
  intro h
  refine ⟨rfl, .inl ?_⟩
  by_contra hn
  have hs : strobe = 0b1111#4 := by
    by_contra hs; exact hn (.inr fun e => hs (BitVec.eq_of_toNat_eq e))
  have hw : word.toNat ∈ [0, 1, 2] := by
    by_contra hw; exact hn (.inl hw)
  have hw' : word = 0#32 ∨ word = 1#32 ∨ word = 2#32 := by
    simpa [BitVec.toNat_eq] using hw
  subst hs
  rcases hw' with rfl | rfl | rfl <;> exact absurd h (by decide)
theorem roundF (idx : BitVec 4) (amount : BitVec 5) : Statement (.roundF idx amount) :=
  fun _ => ⟨rfl, .inr (by revert idx amount; decide +kernel)⟩
theorem roundG (idx : BitVec 4) (amount : BitVec 5) : Statement (.roundG idx amount) :=
  fun _ => ⟨rfl, .inr (by revert idx amount; decide +kernel)⟩
theorem roundH (idx : BitVec 4) (amount : BitVec 5) : Statement (.roundH idx amount) :=
  fun _ => ⟨rfl, .inr (by revert idx amount; decide +kernel)⟩
theorem roundI (idx : BitVec 4) (amount : BitVec 5) : Statement (.roundI idx amount) :=
  fun _ => ⟨rfl, .inr (by revert idx amount; decide +kernel)⟩
theorem seqRound (i : BitVec 6) : Statement (.seqRound i) := fun _ => ⟨rfl, .inr (by revert i; decide)⟩
theorem seqFeedforward : Statement .seqFeedforward := fun _ => ⟨rfl, .inr (by decide)⟩

end Sys2Proof.Laws.TableRow
end

