-- ==== Sys2Proof/Laws/Rounds.lean ====
section
/-! SUPPORT. The laws of the round datapath: the loop of R97 one round at a time, and the field lemmas of a round. -/

namespace Sys2Proof.Machine

@[simp] theorem roundsFrom_zero (w : Working) (msg : Vector Word 16) : roundsFrom w msg 0 = w := rfl

theorem roundsFrom_succ (w : Working) (msg : Vector Word 16) (n : Nat) :
    roundsFrom w msg (n + 1) = roundAt (BitVec.ofNat 6 n) msg (roundsFrom w msg n) := rfl

/-- Compress is the feed-forward of the working registers after the 64 rounds. -/
theorem compress_eq (chain : Vector Word 4) (msg : Vector Word 16) :
    compress chain msg = addWorking chain (roundsFrom (workingOf chain) msg 64) := rfl

theorem compressSeq_cons (chain : Vector Word 4) (msg : Vector Word 16) (rest : List (Vector Word 16)) :
    compressSeq chain (msg :: rest) = compressSeq (compress chain msg) rest := rfl

/-- The round a sequencer step runs is round i of R97 on the words held. -/
theorem runRound_schedule (i : BitVec 6) (s : State) :
    runRound (schedule i).fn (schedule i).idx (schedule i).amount (krom i) s
      = s.setWorking (roundAt i s.msg s.working) := rfl

/-- The values of FN a decoder tells apart are the four functions (R61). -/
theorem decodeFn_cases (fn : BitVec 2) :
    (fn = 0#2 ∧ decodeFn fn = .f) ∨ (fn = 1#2 ∧ decodeFn fn = .g) ∨ (fn = 2#2 ∧ decodeFn fn = .h) ∨
    (fn = 3#2 ∧ decodeFn fn = .i) := by revert fn; decide

end Sys2Proof.Machine
end

