-- ==== Sys2Proof/Laws/Step.lean ====
section
/-! SUPPORT. What the meanings, the agents and the step can do, said once: every instruction answers a next state, none looks
at the schedule, and the step splits on the schedule's first entry. -/

namespace Sys2Proof.Machine

/-- Every instruction answers a next state, in every state. -/
theorem exec_next (i : Instr) (s : State) : ∃ t, exec i s = .next t := by
  cases i
  case wrCmd wdata wstrb =>
    rcases execWrCmd_cases wdata wstrb s with h | h | h | h <;> exact ⟨_, h⟩
  case seqRound i => cases hb : s.busy <;> simp [exec, execSeqRound, hb]
  case seqFeedforward => cases hb : s.busy <;> simp [exec, execSeqFeedforward, hb]
  all_goals exact ⟨_, rfl⟩

/-- Recording an error does not look at the schedule. -/
theorem raiseError_setInputs (e : ErrCode) (addr : Offset) (s : State) (l : List Stimulus) :
    raiseError e addr (s.setInputs l) = (raiseError e addr s).setInputs l := by
  by_cases h : s.errcode = 0#4 <;> simp only [raiseError, State.setInputs_errcode, h, ↓reduceIte] <;> rfl

/-- Nor does a COMPRESS. -/
theorem startCompress_setInputs (s : State) (l : List Stimulus) :
    startCompress (s.setInputs l) = (startCompress s).setInputs l := by
  cases h : s.busy <;> simp only [startCompress, State.setInputs_busy, h, ↓reduceIte, raiseError_setInputs]
  rfl

/-- Nor does a guarded write whose write does not. -/
theorem guardedWrite_setInputs (wstrb : Strobe) (addr : Offset) (write : State → State) (s : State)
    (l : List Stimulus) (hw : write (s.setInputs l) = (write s).setInputs l) :
    guardedWrite wstrb addr write (s.setInputs l) = (guardedWrite wstrb addr write s).setInputs l := by
  by_cases hz : wstrb = 0#4
  · simp only [guardedWrite, hz, ↓reduceIte]
  · cases h : s.busy <;>
      simp only [guardedWrite, hz, State.setInputs_busy, h, Bool.false_eq_true, ↓reduceIte, raiseError_setInputs,
        hw]

/-- No instruction looks at the schedule or changes it. -/
theorem exec_setInputs {i : Instr} {s t : State} (h : exec i s = .next t) (l : List Stimulus) :
    exec i (s.setInputs l) = .next (t.setInputs l) := by
  cases i
  case accMisaligned we addr =>
    cases h; cases we
    · exact congrArg (fun u : State => Host.Outcome.next (u.setRdata 0)) (raiseError_setInputs ..)
    · exact congrArg Host.Outcome.next (raiseError_setInputs ..)
  case accUnmapped we addr =>
    cases h; cases we
    · exact congrArg (fun u : State => Host.Outcome.next (u.setRdata 0)) (raiseError_setInputs ..)
    · exact congrArg Host.Outcome.next (raiseError_setInputs ..)
  case wrState n wdata wstrb => cases h; exact congrArg Host.Outcome.next (guardedWrite_setInputs _ _ _ _ _ rfl)
  case wrMsg j wdata wstrb => cases h; exact congrArg Host.Outcome.next (guardedWrite_setInputs _ _ _ _ _ rfl)
  case wrCtrl wdata wstrb =>
    cases h
    cases hl : wstrb.getLsbD 0 <;> simp only [exec, execWrCtrl, hl, ↓reduceIte] <;> rfl
  case wrCmd wdata wstrb =>
    simp only [exec, execWrCmd, rejectCommand, raiseError_setInputs, startCompress_setInputs] at h ⊢
    by_cases h1 : wstrb ≠ 0b1111#4 ∨ wdata.extractLsb' 4 28 ≠ 0#28 ∨ 2 < (wdata.extractLsb' 0 4).toNat
    · rw [if_pos h1] at h ⊢; cases h; rfl
    · rw [if_neg h1] at h ⊢
      by_cases h2 : wdata.extractLsb' 0 4 = 0#4
      · rw [if_pos h2] at h ⊢; cases h; rfl
      · rw [if_neg h2] at h ⊢
        by_cases h3 : wdata.extractLsb' 0 4 = 1#4
        · rw [if_pos h3] at h ⊢; cases h; rfl
        · rw [if_neg h3] at h ⊢; cases h; rfl
  case compress => cases h; exact congrArg Host.Outcome.next (startCompress_setInputs ..)
  case seqRound i =>
    cases hb : s.busy <;> simp only [exec, execSeqRound, State.setInputs_busy, hb, ↓reduceIte] at h ⊢ <;>
      cases h <;> rfl
  case seqFeedforward =>
    cases hb : s.busy <;> simp only [exec, execSeqFeedforward, State.setInputs_busy, hb, ↓reduceIte] at h ⊢ <;>
      cases h <;> rfl
  case wrStatus => cases h; exact congrArg Host.Outcome.next (raiseError_setInputs ..)
  case wrId => cases h; exact congrArg Host.Outcome.next (raiseError_setInputs ..)
  case wrKrom => cases h; exact congrArg Host.Outcome.next (raiseError_setInputs ..)
  case wrSrom => cases h; exact congrArg Host.Outcome.next (raiseError_setInputs ..)
  case cmdIllegal => cases h; exact congrArg Host.Outcome.next (raiseError_setInputs ..)
  all_goals cases h; rfl

/-- The schedule is left as it was. -/
theorem exec_inputs {i : Instr} {s t : State} (h : exec i s = .next t) : t.inputs = s.inputs := by
  have h' := exec_setInputs h s.inputs
  rw [State.setInputs_self, h] at h'
  injection h' with h'
  rw [h']; rfl

/-! ### The step, by the schedule's first entry -/

theorem step_host {s : State} {a : Access} {rest : List Stimulus} (h : s.inputs = .host a :: rest) :
    step s = hostStep a (s.setInputs rest) := by simp [step, h]

theorem step_sequencer {s : State} {rest : List Stimulus} (h : s.inputs = .sequencer :: rest) :
    step s = sequencerStep (s.setInputs rest) := by simp [step, h]

theorem step_clock {s : State} {p : Pins} {rest : List Stimulus} (h : s.inputs = .clock p :: rest) :
    step s = clockEdge p (s.setInputs rest) := by simp [step, h]

theorem step_empty {s : State} (h : s.inputs = []) : step s = sequencerStep s := by simp [step, h]

/-- A sequencer step is no step, the round of RC, the feed-forward, or stuck (R63, R92). -/
theorem sequencerStep_cases (s : State) :
    (s.busy = false ∧ sequencerStep s = .next s) ∨
    (s.busy = true ∧ s.rc.toNat < 64 ∧ sequencerStep s = exec (.seqRound (s.rc.extractLsb' 0 6)) s) ∨
    (s.busy = true ∧ s.rc = 64#7 ∧ sequencerStep s = exec .seqFeedforward s) ∨
    (s.busy = true ∧ 64 < s.rc.toNat ∧ sequencerStep s = .fault .sequencerStuck) := by
  cases hb : s.busy
  · exact .inl ⟨rfl, by simp [sequencerStep, hb]⟩
  · rcases decodeSeq_cases s.rc with ⟨h, e⟩ | ⟨h, e⟩ | ⟨h, e⟩
    · exact .inr (.inl ⟨rfl, h, by simp [sequencerStep, hb, e]⟩)
    · exact .inr (.inr (.inl ⟨rfl, h, by simp [sequencerStep, hb, e]⟩))
    · exact .inr (.inr (.inr ⟨rfl, h, by simp [sequencerStep, hb, e]⟩))

/-- A host step answers a next state. -/
theorem hostStep_next (a : Access) (s : State) : ∃ t, hostStep a s = .next t := exec_next _ s

/-- A clock edge is a reset edge, or the access presented and then, if BUSY was 1, a sequencer step (R137, R142). -/
theorem clockEdge_cases (p : Pins) (s : State) :
    (p.rstN = false ∧ clockEdge p s = .next (resetEdge p s)) ∨
    (p.rstN = true ∧ ∃ t, (if p.valid then hostStep p.access s else .next s) = .next t ∧
      clockEdge p s = if s.busy then sequencerStep t else .next t) := by
  cases hr : p.rstN
  · exact .inl ⟨rfl, by simp [clockEdge, hr]⟩
  · refine .inr ⟨rfl, ?_⟩
    cases hv : p.valid
    · exact ⟨s, by simp, by simp [clockEdge, hr, hv, andThen]⟩
    · obtain ⟨t, ht⟩ := hostStep_next p.access s
      exact ⟨t, by simpa using ht, by simp [clockEdge, hr, hv, ht, andThen]⟩

end Sys2Proof.Machine
end

