-- ==== Sys2Proof/Laws/Script.lean ====
section
/-! SUPPORT. The laws of the host's scripts: what a turn can do, said once, and that a run that finishes has presented an
encoding of its script. -/

namespace Sys2Proof.Machine

/-- A run that answers has taken its first turn, and the rest from where that left it. -/
theorem runTurns_cons {x : Turn} {rest : List Turn} {r q : ScriptRun} (h : runTurns (x :: rest) r = .next q) :
    ∃ p, scriptTurn x r = .next p ∧ runTurns rest p = .next q := by
  simp only [runTurns] at h
  split at h
  · exact ⟨_, ‹_›, h⟩
  · cases h
  · cases h

/-- Presenting an access, or nothing, takes one step of the cell. -/
theorem ScriptRun.present_cases {r q : ScriptRun} {a : Option Access} {x : Stimulus} (h : r.present a x = .next q) :
    ∃ t, step (r.cell.setInputs (x :: r.cell.inputs)) = .next t ∧
      ((∃ b, a = some b ∧ q = r.after b t) ∨ (a = none ∧ q = { r with cell := t })) := by
  unfold ScriptRun.present at h
  split at h
  · refine ⟨_, ‹_›, ?_⟩
    split at h
    · cases h; exact .inl ⟨_, rfl, rfl⟩
    · cases h; exact .inr ⟨rfl, rfl⟩
  · cases h
  · cases h

/-- A turn either presents the host's access and goes on after it, or presents nothing and leaves the script. -/
theorem scriptTurn_cases {x : Turn} {r q : ScriptRun} (h : scriptTurn x r = .next q) :
    (∃ a t, r.access = some a ∧ q = r.after a t) ∨ (∃ t, q = { r with cell := t }) := by
  cases x
  · simp only [scriptTurn] at h
    split at h
    · obtain ⟨t, -, ⟨b, hb, rfl⟩ | ⟨hb, -⟩⟩ := ScriptRun.present_cases h
      · cases hb; exact .inl ⟨_, t, ‹_›, rfl⟩
      · cases hb
    · cases h; exact .inr ⟨r.cell, rfl⟩
  · simp only [scriptTurn] at h
    obtain ⟨t, -, ⟨b, hb, -⟩ | ⟨-, rfl⟩⟩ := ScriptRun.present_cases h
    · cases hb
    · exact .inr ⟨t, rfl⟩
  · simp only [scriptTurn] at h
    split at h
    · obtain ⟨t, -, ⟨b, hb, rfl⟩ | ⟨hb, -⟩⟩ := ScriptRun.present_cases h
      · cases hb; exact .inl ⟨_, t, ‹_›, rfl⟩
      · cases hb
    · obtain ⟨t, -, ⟨b, hb, -⟩ | ⟨-, rfl⟩⟩ := ScriptRun.present_cases h
      · cases hb
      · exact .inr ⟨t, rfl⟩

/-- The access a host presents is the first of an encoding of its script: what the script is left with after it, encoded in
any way, is the rest of one. The one exception is an `expect` that fails. -/
theorem access_then_todo {r : ScriptRun} {a : Access} {t : State} (h : r.access = some a) :
    (r.after a t).failed = true ∨
    ∀ repeats, ∃ more, opsAccesses more r.todo = a :: opsAccesses repeats (r.after a t).todo := by
  obtain ⟨todo, failed, issued, returned, cell⟩ := r
  cases failed
  case true => simp [ScriptRun.access] at h
  rcases todo with _ | ⟨op, rest⟩
  · simp [ScriptRun.access] at h
  cases op
  case access b =>
    cases h; exact .inr fun repeats => ⟨repeats, rfl⟩
  case wait =>
    cases h
    refine .inr fun repeats => ?_
    by_cases hw : waitAgain t.rdata = true
    · exact ⟨(repeats.headD 0 + 1) :: repeats.tail, by
        simp [ScriptRun.after, todoAfter, hw, opsAccesses, List.replicate_succ]⟩
    · exact ⟨0 :: repeats, by simp [ScriptRun.after, todoAfter, hw, opsAccesses]⟩
  case awaitIrq =>
    have ha : a = readOf statusOffset := by
      cases hi : cell.irq <;> simp [ScriptRun.access, opAccess, hi] at h
      exact h.symm
    subst ha
    refine .inr fun repeats => ?_
    by_cases hw : readsDone t.rdata = true
    · exact ⟨0 :: repeats, by simp [ScriptRun.after, todoAfter, hw, opsAccesses]⟩
    · exact ⟨(repeats.headD 0 + 1) :: repeats.tail, by
        simp [ScriptRun.after, todoAfter, hw, opsAccesses, List.replicate_succ]⟩
  case expect addr imm =>
    cases h
    by_cases he : expectPasses imm t.rdata = true
    · exact .inr fun repeats => ⟨repeats, by simp [ScriptRun.after, todoAfter, he, opsAccesses]⟩
    · exact .inl (by simp [ScriptRun.after, todoAfter, he])

/-- A script that has stopped stays stopped. -/
theorem scriptTurn_failed {x : Turn} {r q : ScriptRun} (h : scriptTurn x r = .next q) (hf : r.failed = true) :
    q.failed = true := by
  rcases scriptTurn_cases h with ⟨a, t, ha, -⟩ | ⟨t, rfl⟩
  · simp [ScriptRun.access, hf] at ha
  · exact hf

theorem runTurns_failed {turns : List Turn} : ∀ {r q : ScriptRun}, runTurns turns r = .next q → r.failed = true →
    q.failed = true := by
  induction turns with
  | nil => intro r q h hf; cases h; exact hf
  | cons x rest ih =>
    intro r q h hf
    obtain ⟨p, hp, hq⟩ := runTurns_cons h
    exact ih hq (scriptTurn_failed hp hf)

/-- A run that finishes has presented the accesses of what it had left, with some number of reads for each wait
(R68, R69). -/
theorem runTurns_issued {turns : List Turn} : ∀ {r q : ScriptRun}, runTurns turns r = .next q → q.failed = false →
    q.todo = [] → ∃ repeats, q.issued = r.issued ++ opsAccesses repeats r.todo := by
  induction turns with
  | nil => intro r q h _ ht; cases h; exact ⟨[], by simp [ht, opsAccesses]⟩
  | cons x rest ih =>
    intro r q h hf ht
    obtain ⟨p, hp, hq⟩ := runTurns_cons h
    obtain ⟨repeats, he⟩ := ih hq hf ht
    rcases scriptTurn_cases hp with ⟨a, t, ha, rfl⟩ | ⟨t, rfl⟩
    · rcases access_then_todo (t := t) ha with hbad | hgo
      · rw [runTurns_failed hq hbad] at hf; cases hf
      · obtain ⟨more, hm⟩ := hgo repeats
        exact ⟨more, by rw [he, hm]; simp [ScriptRun.after]⟩
    · exact ⟨repeats, he⟩

/-- Every run of a script that finishes has presented one of its encodings (log entry 18). -/
theorem finishedRun_issued {turns : List Turn} {script : List Line} {s : State} {q : ScriptRun}
    (h : runTurns turns (startScript (scriptOps script) s) = .next q) (hf : q.failed = false) (ht : q.todo = []) :
    ∃ repeats, q.issued = scriptAccesses repeats script := by
  simpa [startScript, scriptAccesses] using runTurns_issued h hf ht

end Sys2Proof.Machine
end

