-- ==== Sys2Proof/Tests/Slice0.lean ====
section
/-! SUPPORT. The model's own tests. Expected values are the spec's: the encodings of 30_encoding.md and the vectors of
95_test_vectors.md, named in each comment. The last part shows, for each statement with hypotheses, values that meet
them. -/

namespace Sys2Proof.Tests

open Sys2Proof Sys2Proof.Machine

/-- The state a step answers, where it answers one. -/
def after : Result → Option State
  | .next s => some s
  | .fault _ | .refused _ => none

/-- MD5's initial value (95_test_vectors.md, IV). -/
def iv : Vector Word 4 := #v[0x67452301, 0xEFCDAB89, 0x98BADCFE, 0x10325476]

/-- The padded block of the empty message (KAT-1). -/
def emptyBlock : Vector Word 16 := (Vector.replicate 16 0).set 0 0x00000080

/-- The padded block of "abc" (KAT-2). -/
def abcBlock : Vector Word 16 := ((Vector.replicate 16 0).set 0 0x80636261).set 14 0x00000018

/-- SB: right after the accept of KAT-1's COMPRESS. -/
def busyState : State := { State.reset with chain := iv, msg := emptyBlock, busy := true, working := workingOf iv }

/-- S1: after KAT-1's compression. -/
def doneState : State :=
  { State.reset with
    chain := #v[0xD98C1DD4, 0x04B2008F, 0x980980E9, 0x7E42F8EC], msg := emptyBlock, done := true }

/-- The all-zero block and state, `n` rounds after the accept. -/
def runningAt (n : Nat) : State :=
  { State.reset with
    busy := true, rc := BitVec.ofNat 7 n, working := roundsFrom (workingOf State.reset.chain) State.reset.msg n }

/-- An ILLEGAL_CMD is recorded (IF-9's end state). -/
def errorState : State := { State.reset with errcode := 1, erraddr := 0x010 }

/-- The word a read step returns. -/
def readBy (a : Access) (s : State) : Option Word := (after (hostStep a s)).map (·.rdata)

/-- STATUS after a host step. -/
def statusBy (a : Access) (s : State) : Option Word := (after (hostStep a s)).map (·.statusWord)

/-- The state with this schedule. -/
def scheduled (l : List Stimulus) (s : State) : State := s.setInputs l

/-! ### Well-formedness: an ill-formed term for each check is refused -/

theorem test_wf_refuses_aligned_misaligned : (Instr.accMisaligned true 0x010).wf = false := by decide
theorem test_wf_refuses_mapped_unmapped : (Instr.accUnmapped true 0x040).wf = false := by decide
theorem test_wf_refuses_misaligned_unmapped : (Instr.accUnmapped false 0x021).wf = false := by decide
theorem test_wf_refuses_legal_illegal : (Instr.cmdIllegal 2 0b1111).wf = false := by decide
theorem test_wf_refuses_roundF_without_rotation : (Instr.roundF 3 0).wf = false := by decide
theorem test_wf_refuses_roundG_without_rotation : (Instr.roundG 3 0).wf = false := by decide
theorem test_wf_refuses_roundH_without_rotation : (Instr.roundH 3 0).wf = false := by decide
theorem test_wf_refuses_roundI_without_rotation : (Instr.roundI 3 0).wf = false := by decide

/-! ### Decoding: a word for each constructor, written out from R55, R57, R60 and R63 -/

theorem test_decode_accMisaligned :
    decode (.bus ⟨false, 0b0001000010#10, 0, 0⟩) = .ok (.accMisaligned false 0x042) := by decide
theorem test_decode_rdState : decode (.bus ⟨false, 0b0000001100#10, 0, 0⟩) = .ok (.rdState 3) := by decide
theorem test_decode_wrState :
    decode (.bus ⟨true, 0b0000001000#10, 0xAABBCCDD, 0x5⟩) = .ok (.wrState 2 0xAABBCCDD 0x5) := by decide
theorem test_decode_rdCmd : decode (.bus ⟨false, 0b0000010000#10, 0, 0⟩) = .ok .rdCmd := by decide
theorem test_decode_wrCmd : decode (.bus ⟨true, 0b0000010000#10, 2, 0xF⟩) = .ok (.wrCmd 2 0xF) := by decide
theorem test_decode_rdStatus : decode (.bus ⟨false, 0b0000010100#10, 0, 0⟩) = .ok .rdStatus := by decide
theorem test_decode_wrStatus : decode (.bus ⟨true, 0b0000010100#10, 9, 0⟩) = .ok (.wrStatus 9 0) := by decide
theorem test_decode_rdCtrl : decode (.bus ⟨false, 0b0000011000#10, 0, 0⟩) = .ok .rdCtrl := by decide
theorem test_decode_wrCtrl : decode (.bus ⟨true, 0b0000011000#10, 3, 0xE⟩) = .ok (.wrCtrl 3 0xE) := by decide
theorem test_decode_rdId : decode (.bus ⟨false, 0b0000011100#10, 0, 0⟩) = .ok .rdId := by decide
theorem test_decode_wrId : decode (.bus ⟨true, 0b0000011100#10, 9, 1⟩) = .ok (.wrId 9 1) := by decide
theorem test_decode_accUnmapped_low :
    decode (.bus ⟨true, 0b0000111100#10, 0, 0⟩) = .ok (.accUnmapped true 0x03C) := by decide
theorem test_decode_accUnmapped_middle :
    decode (.bus ⟨false, 0b0011111100#10, 0, 0⟩) = .ok (.accUnmapped false 0x0FC) := by decide
theorem test_decode_accUnmapped_high :
    decode (.bus ⟨true, 0b1111111100#10, 0, 0⟩) = .ok (.accUnmapped true 0x3FC) := by decide
theorem test_decode_rdMsg : decode (.bus ⟨false, 0b0001111100#10, 0, 0⟩) = .ok (.rdMsg 15) := by decide
theorem test_decode_wrMsg :
    decode (.bus ⟨true, 0b0001000100#10, 0x00006100, 0x2⟩) = .ok (.wrMsg 1 0x00006100 0x2) := by decide
theorem test_decode_rdKrom : decode (.bus ⟨false, 0b0111111100#10, 0, 0⟩) = .ok (.rdKrom 63) := by decide
theorem test_decode_wrKrom : decode (.bus ⟨true, 0b0100000100#10, 7, 8⟩) = .ok (.wrKrom 1 7 8) := by decide
theorem test_decode_rdSrom : decode (.bus ⟨false, 0b1001000000#10, 0, 0⟩) = .ok (.rdSrom 16) := by decide
theorem test_decode_wrSrom : decode (.bus ⟨true, 0b1011111100#10, 0, 0⟩) = .ok (.wrSrom 63 0 0) := by decide
theorem test_decode_nop : decode (.cmd 0x00000000 0xF) = .ok .nop := by decide
theorem test_decode_compress : decode (.cmd 0x00000001 0xF) = .ok .compress := by decide
theorem test_decode_ack : decode (.cmd 0x00000002 0xF) = .ok .ack := by decide
theorem test_decode_cmdIllegal_op : decode (.cmd 0x00000003 0xF) = .ok (.cmdIllegal 3 0xF) := by decide
theorem test_decode_cmdIllegal_mbz : decode (.cmd 0x80000000 0xF) = .ok (.cmdIllegal 0x80000000 0xF) := by decide
theorem test_decode_cmdIllegal_strobe : decode (.cmd 0x00000001 0x1) = .ok (.cmdIllegal 1 0x1) := by decide
/-- SROM[3] of R76. -/
theorem test_decode_roundF : decode (.srom 0x00160300) = .ok (.roundF 3 22) := by decide
/-- SROM[16] of R76. -/
theorem test_decode_roundG : decode (.srom 0x00050101) = .ok (.roundG 1 5) := by decide
/-- SROM[35] of R76. -/
theorem test_decode_roundH : decode (.srom 0x00170E02) = .ok (.roundH 14 23) := by decide
/-- SROM[63] of R76. -/
theorem test_decode_roundI : decode (.srom 0x00150903) = .ok (.roundI 9 21) := by decide
/-- The reserved bits are ignored (R65). -/
theorem test_decode_srom_reserved : decode (.srom 0xFFF5F9FF) = .ok (.roundI 9 21) := by decide
theorem test_decode_seqRound : decode (.seq 0b0111111) = .ok (.seqRound 63) := by decide
theorem test_decode_seqFeedforward : decode (.seq 0b1000000) = .ok .seqFeedforward := by decide
theorem test_decode_seq_unreachable : decode (.seq 0b1000001) = .error .rcUnreachable := by decide

/-! ### Meanings: the vectors of 95_test_vectors.md -/

/-- IF-21: a misaligned read. -/
theorem test_misaligned_read : statusBy (readOf 0x042) State.reset = some 0x00420050 := by decide
/-- IF-22: a misaligned CMD write executes nothing. -/
theorem test_misaligned_cmd : statusBy (writeOf 0x011 1 0xF) State.reset = some 0x00110050 := by decide
/-- IF-43: STATE reads its pre-block value while busy. -/
theorem test_rdState_busy : readBy (readOf 0x000) busyState = some 0x67452301 := by decide
/-- IF-6: lanes 0 and 2. -/
theorem test_wrState_lanes :
    (after (hostStep (writeOf 0x000 0xAABBCCDD 0x5) State.reset)).map (·.chain[0]) = some 0x00BB00DD := by decide
/-- IF-41: a STATE write while busy. -/
theorem test_wrState_busy : statusBy (writeOf 0x00C 0 0xF) busyState = some 0x000C0031 := by decide
/-- IF-3. -/
theorem test_rdCmd : readBy (readOf 0x010) errorState = some 0x00000000 := by decide
/-- IF-39: an illegal word wins over BUSY. -/
theorem test_wrCmd_illegal_busy : statusBy (writeOf 0x010 7 0xF) busyState = some 0x00100011 := by decide
/-- IF-12: a zero strobe on CMD. -/
theorem test_wrCmd_strobe : statusBy (writeOf 0x010 1 0x0) State.reset = some 0x00100010 := by decide
/-- IF-48. -/
theorem test_rdStatus : readBy (readOf 0x014) doneState = some 0x00000002 := by decide
/-- IF-14: a write to STATUS, zero strobe. -/
theorem test_wrStatus : statusBy (writeOf 0x014 0 0) State.reset = some 0x00140040 := by decide
/-- IF-27, IF-28: reserved CTRL bits are dropped. -/
theorem test_ctrl_reserved :
    (after (hostStep (writeOf 0x018 0xFFFFFFFF 0xF) State.reset)).bind (readBy (readOf 0x018)) = some 0x00000003 := by
  decide
/-- IF-29: a CTRL write without lane 0. -/
theorem test_wrCtrl_lane : after (hostStep (writeOf 0x018 3 0xE) State.reset) = some State.reset := by decide
/-- IF-1. -/
theorem test_rdId : readBy (readOf 0x01C) State.reset = some 0x4D443501 := by decide
/-- IF-15. -/
theorem test_wrId : statusBy (writeOf 0x01C 0xFFFFFFFF 0xF) State.reset = some 0x001C0040 := by decide
/-- IF-17: the first unmapped offset. -/
theorem test_unmapped_read : statusBy (readOf 0x020) State.reset = some 0x00200040 := by decide
/-- IF-20: an unmapped write. -/
theorem test_unmapped_write : statusBy (writeOf 0x3FC 1 0xF) State.reset = some 0x03FC0040 := by decide
/-- R108's example: block byte 5. -/
theorem test_rdMsg :
    (after (hostStep (writeOf 0x044 0x00006100 0x2) State.reset)).bind (readBy (readOf 0x044)) = some 0x00006100 := by
  decide
/-- IF-40: an MSG write while busy. -/
theorem test_wrMsg_busy : statusBy (writeOf 0x040 0 0xF) busyState = some 0x00400031 := by decide
/-- IF-8: a zero strobe. -/
theorem test_wrMsg_zero_strobe :
    after (hostStep (writeOf 0x040 0x12345678 0x0) State.reset) = some State.reset := by decide
/-- IF-31. -/
theorem test_rdKrom : readBy (readOf 0x1FC) State.reset = some 0xEB86D391 := by decide
/-- IF-25: a second error sets ERROVF alone. -/
theorem test_wrKrom_second : statusBy (writeOf 0x100 0 0xF) errorState = some 0x00100110 := by decide
/-- IF-33. -/
theorem test_rdSrom : readBy (readOf 0x240) State.reset = some 0x00050101 := by decide
/-- IF-16. -/
theorem test_wrSrom : statusBy (writeOf 0x2FC 0 0xF) State.reset = some 0x02FC0040 := by decide
/-- IF-45: NOP while busy. -/
theorem test_nop_busy : after (hostStep (writeOf 0x010 0 0xF) busyState) = some busyState := by decide
/-- IF-51: a COMPRESS with DONE = 1. -/
theorem test_compress_done : statusBy (writeOf 0x010 1 0xF) doneState = some 0x00000001 := by decide
/-- IF-38: a COMPRESS while busy. -/
theorem test_compress_busy : statusBy (writeOf 0x010 1 0xF) busyState = some 0x00100021 := by decide
/-- IF-26: ACK clears the error fields. -/
theorem test_ack : statusBy (writeOf 0x010 2 0xF) errorState = some 0x00000000 := by decide
/-- IF-10: MBZ. -/
theorem test_cmdIllegal : (after (exec (.cmdIllegal 0x10 0xF) State.reset)).map (·.statusWord) = some 0x00100010 := by
  decide
/-- RND-1. -/
theorem test_roundF : (after (exec (.roundF 0 7) busyState)).map (·.working)
    = some ⟨0x10325476, 0xA5202774, 0xEFCDAB89, 0x98BADCFE⟩ := by decide
/-- RND-2. -/
theorem test_roundG : (after (exec (.roundG 1 5) { busyState with rc := 16 })).map (·.working)
    = some ⟨0x10325476, 0xAD47C905, 0xEFCDAB89, 0x98BADCFE⟩ := by decide
/-- RND-3. -/
theorem test_roundH : (after (exec (.roundH 5 4) { busyState with rc := 32 })).map (·.working)
    = some ⟨0x10325476, 0xD8159FD5, 0xEFCDAB89, 0x98BADCFE⟩ := by decide
/-- RND-4. -/
theorem test_roundI : (after (exec (.roundI 0 6) { busyState with rc := 48 })).map (·.working)
    = some ⟨0x10325476, 0xA93CFABD, 0xEFCDAB89, 0x98BADCFE⟩ := by decide
/-- RND-10: round 63 of the all-zero state and block. -/
theorem test_seqRound_last : (after (step { State.reset with busy := true, rc := 63 })).map (fun t => (t.working, t.rc))
    = some (⟨0, 0x721D70DA, 0, 0⟩, 64) := by decide
/-- The last row of the trace of KAT-1, and its step 65. -/
theorem test_seqFeedforward :
    (after (step { busyState with rc := 64, working := ⟨0x7246FAD3, 0x14E45506, 0xFF4EA3EB, 0x6E10A476⟩ })).map
      (fun t => (t.chain, t.statusWord, t.rc)) = some (doneState.chain, 0x00000002, 0) := by decide

/-- KAT-1. -/
theorem test_compress_empty_message : compress iv emptyBlock = doneState.chain := by decide +kernel
/-- KAT-2. -/
theorem test_compress_abc :
    compress iv abcBlock = #v[0x98500190, 0xB04FD23C, 0x7D3F96D6, 0x727FE128] := by decide +kernel
/-- IF-50: DIE with DONE raises irq at once. -/
theorem test_irq_done : (after (hostStep (writeOf 0x018 1 0xF) doneState)).map (·.irq) = some true := by decide
/-- IF-30: EIE with an error pending raises irq. -/
theorem test_irq_error : (after (hostStep (writeOf 0x018 2 0xF) errorState)).map (·.irq) = some true := by decide
/-- SC-1: STATUS read in the cycle of the feed-forward. -/
theorem test_same_cycle_status :
    (after (step (scheduled [.clock ⟨true, true, readOf 0x014⟩] { busyState with rc := 64 }))).map
      (fun t => (t.rdata, t.statusWord)) = some (0x00000001, 0x00000002) := by decide
/-- SC-3: an MSG write in the cycle of the feed-forward. -/
theorem test_same_cycle_msg :
    (after (step (scheduled [.clock ⟨true, true, writeOf 0x040 0 0xF⟩] { busyState with rc := 64 }))).map
      (fun t => (t.statusWord, t.msg)) = some (0x00400032, emptyBlock) := by decide
/-- The reset vector: from SB a reset edge clears STATE, and a write presented with it has no effect. -/
theorem test_reset_edge :
    (after (step (scheduled [.clock ⟨false, true, writeOf 0x000 5 0xF⟩] busyState))).map
      (fun t => (t.chain, t.statusWord, t.rc)) = some (Vector.replicate 4 0, 0, 0) := by decide
/-- R69's two examples. -/
theorem test_script_listing :
    encodeScript [] [.cmd .compress, .wrb 5 0x61] = [.w 0x010 0x00000001 0xF, .w 0x044 0x00006100 0x2] := by decide
/-- P6: no block takes no access. -/
theorem test_script_no_blocks : scriptAccesses [3] [.compressBlocks []] = [] := by decide
/-- Two waits of different lengths (R68): an idle one reads STATUS once, a later one three times. -/
theorem test_script_waits : encodeScript [0, 2] [.wait, .cmd .compress, .wait]
    = [.r 0x014, .w 0x010 0x00000001 0xF, .r 0x014, .r 0x014, .r 0x014] := by decide
/-- What a host's turn leaves of a script. -/
def todoLeft (ops : List HostOp) (s : State) : Option (List HostOp × Bool) :=
  match scriptTurn .host (startScript ops s) with
  | .next r => some (r.todo, r.failed)
  | .fault _ | .refused _ => none
/-- R68: a `wait` reads again while BUSY reads 1, and no more once it reads 0. -/
theorem test_script_wait_repeats :
    todoLeft [.wait, .awaitIrq] busyState = some ([.wait, .awaitIrq], false) ∧
    todoLeft [.wait, .awaitIrq] doneState = some ([.awaitIrq], false) := by decide
/-- R114's `expect` of ID passes; of another word it stops the script. -/
theorem test_script_expect :
    todoLeft [.expect 0x01C 0x4D443501, .wait] State.reset = some ([.wait], false) ∧
    (todoLeft [.expect 0x01C 0x4D443502, .wait] State.reset).map (·.2) = some true := by decide
/-- SC-1 in a script: in the cycle of the feed-forward a `wait` still reads BUSY = 1 (R142). -/
theorem test_script_wait_cycle :
    (match scriptTurn .cycle (startScript [.wait] { busyState with rc := 64 }) with
      | .next r => some (r.todo, r.returned, r.cell.busy)
      | .fault _ | .refused _ => none) = some ([.wait], [0x00000001], false) := by decide

/-! ### The host's table words run first after reset (log entry 8) -/

theorem test_table_bus : decodeTableWord 16 0x410 = some (.wrCmd 0 0) ∧
    (after (step (State.reset.withFetchWord 16 0x410))).map (·.statusWord) = some 0x00100010 := by decide
theorem test_table_misaligned : decodeTableWord 8 3 = some (.accMisaligned false 3) ∧
    decodeTableWord 16 3 = some (.accMisaligned false 3) := by decide
theorem test_table_cmd : decodeTableWord 32 1 = some .compress ∧
    (after (step (State.reset.withFetchWord 32 1))).map (·.busy) = some true := by decide
theorem test_table_srom : decodeTableWord 32 0x00050101 = some (.roundG 1 5) ∧
    (after (step (State.reset.withFetchWord 32 0x00050101))).map (·.rc) = some 17 := by decide
theorem test_table_seq : decodeTableWord 8 0x40 = some .seqFeedforward ∧
    (after (step (State.reset.withFetchWord 8 0x40))).map (·.done) = some true := by decide

/-! ### Witnesses: for each statement with hypotheses, values that meet them all, clause by clause -/

/-- The running states meet the invariant. -/
theorem runningAt_inv (n : Nat) (h : n ≤ 64) : Inv (runningAt n) where
  rc_le := by simp only [runningAt, BitVec.toNat_ofNat]; omega
  rc_idle h := nomatch h
  exclusive h := nomatch h.2
  code_le := show (0#4).toNat ≤ 5 by decide
  code_none _ := ⟨rfl, rfl⟩
  code_cmd h := by simp [runningAt, State.reset] at h
  code_busy h := by simp [runningAt, State.reset] at h
  code_bad h := by simp [runningAt, State.reset] at h
  code_align h := by simp [runningAt, State.reset] at h
  progress _ := by
    simp only [runningAt, BitVec.toNat_ofNat, Nat.mod_eq_of_lt (show n < 2 ^ 7 by omega)]

theorem witness_EveryEncodingDecodesBack :
    (Instr.accMisaligned false 0x3FF).wf = true ∧ (Instr.accUnmapped true 0x3FC).wf = true ∧
    (Instr.cmdIllegal 3 0b1111).wf = true ∧ (Instr.cmdIllegal 1 0b0111).wf = true ∧ (Instr.roundI 15 31).wf = true ∧
    (Instr.wrState 3 0xFFFFFFFF 0b1111).wf = true ∧ (Instr.seqRound 63).wf = true := by decide

/-- One offset for each clause of the offset table, at the end of its range. -/
theorem witness_AccessKindFollowsTheOffset :
    decodeBus (readOf 0x3FF) = .accMisaligned false 0x3FF ∧ decodeBus (readOf 0x00C) = .rdState 3 ∧
    decodeBus (writeOf 0x03C 5 1) = .accUnmapped true 0x03C ∧ decodeBus (readOf 0x040) = .rdMsg 0 ∧
    decodeBus (readOf 0x07C) = .rdMsg 15 ∧ decodeBus (readOf 0x080) = .accUnmapped false 0x080 ∧
    decodeBus (readOf 0x0FC) = .accUnmapped false 0x0FC ∧ decodeBus (readOf 0x100) = .rdKrom 0 ∧
    decodeBus (readOf 0x1FC) = .rdKrom 63 ∧ decodeBus (readOf 0x200) = .rdSrom 0 ∧
    decodeBus (writeOf 0x2FC 5 1) = .wrSrom 63 5 1 ∧ decodeBus (readOf 0x300) = .accUnmapped false 0x300 := by decide

theorem witness_LegalCommandWordsAreThree :
    (0x00000002#32).toNat / 16 = 0 ∧ (0x00000002#32).toNat % 16 ≤ 2 ∧ (0x00000003#32).toNat % 16 > 2 ∧
    (0x00000010#32).toNat / 16 ≠ 0 ∧ (0b0111#4 : Strobe) ≠ 0b1111#4 := by decide

theorem witness_StepExecutesTheFetchedInstruction :
    (scheduled [.host (readOf 0x07C)] busyState).fetch = some (.bus (readOf 0x07C)) ∧
    decode (.bus (readOf 0x07C)) = .ok (.rdMsg 15) ∧
    (scheduled [.sequencer] (runningAt 64)).fetch = some (.seq 64) ∧ decode (.seq 64) = .ok .seqFeedforward ∧
    (runningAt 63).inputs = [] ∧ (runningAt 63).fetch = some (.seq 63) := by decide +kernel

/-- Each clause at both forms of the schedule, at the ends of RC's ranges. -/
theorem witness_SequencerStepFollowsTheRoundCounter :
    ((runningAt 63).inputs = [] ∧ (runningAt 63).busy = true ∧ (runningAt 63).rc.toNat < 64) ∧
    ((scheduled [.sequencer] (runningAt 64)).inputs = [.sequencer] ∧ (runningAt 64).busy = true ∧
      (runningAt 64).rc.toNat = 64) ∧
    (({ busyState with rc := 65 } : State).busy = true ∧ 64 < ({ busyState with rc := 65 } : State).rc.toNat) ∧
    (doneState.inputs = [] ∧ doneState.busy = false) := by decide +kernel

theorem witness_ClockEdgeIsAnInterleaving :
    (scheduled [.clock ⟨true, true, readOf 0x014⟩] busyState).inputs = [.clock ⟨true, true, readOf 0x014⟩] ∧
    busyState.busy = true ∧ doneState.busy = false ∧
    after (step (scheduled [.clock ⟨true, true, readOf 0x014⟩] busyState))
      = after (runSteps 2 (scheduled [.host (readOf 0x014), .sequencer] busyState)) ∧
    after (step (scheduled [.clock ⟨true, false, readOf 0⟩] doneState)) = some doneState := by decide

/-- SC-3 and its neighbours: a write to STATE or MSG, a COMPRESS and an ACK in the feed-forward's cycle. -/
theorem witness_AccessInTheFeedforwardCycle :
    ({ busyState with rc := 64 } : State).busy = true ∧ ({ busyState with rc := 64 } : State).rc = 64#7 ∧
    (writeOf 0x00C 0 1).we = true ∧ (0x00C : Offset).aligned = true ∧ (0x00C : Offset).inBlockOrState = true ∧
    (0x07C : Offset).inBlockOrState = true ∧ (writeOf 0x00C 0 1).wstrb ≠ 0#4 ∧
    (writeOf 0x010 1 0xF).isCommand 1 = true ∧ (writeOf 0x010 2 0xF).isCommand 2 = true := by decide

theorem witness_HostReadsFollowMemRead :
    (scheduled [.host (readOf 0x3FF)] errorState).inputs = [.host (readOf 0x3FF)] ∧ (readOf 0x3FF).we = false := by
  decide

theorem witness_HostWritesFollowMemWrite :
    (scheduled [.host (writeOf 0x2FC 0 0)] busyState).inputs = [.host (writeOf 0x2FC 0 0)] ∧
    (writeOf 0x2FC 0 0).we = true := by decide

/-- An access for each of the six causes, one with two causes, and three with none. -/
theorem witness_AccessReportsItsFirstError :
    errorOf busyState (writeOf 0x011 7 0) = some 5 ∧ errorOf busyState (readOf 0x3FC) = some 4 ∧
    errorOf busyState (writeOf 0x2FC 0 0) = some 4 ∧ errorOf busyState (writeOf 0x010 3 0xF) = some 1 ∧
    errorOf busyState (writeOf 0x010 1 0xF) = some 2 ∧ errorOf busyState (writeOf 0x07C 0 1) = some 3 ∧
    errorOf busyState (writeOf 0x010 2 0xF) = none ∧ errorOf State.reset (writeOf 0x010 1 0xF) = none ∧
    errorOf busyState (writeOf 0x07C 0 0) = none := by decide

theorem witness_MisalignedAccessIsRejected : (writeOf 0x011 1 0xF).addr.toNat % 4 ≠ 0 := by decide

/-- The first and the last aligned offset of each unmapped range. -/
theorem witness_UnmappedAccessIsRejected :
    ∀ o ∈ [0x020, 0x03C, 0x080, 0x0FC, 0x300, 0x3FC], (readOf (BitVec.ofNat 10 o)).addr.toNat % 4 = 0 ∧
      (0x020 ≤ (readOf (BitVec.ofNat 10 o)).addr.toNat ∧ (readOf (BitVec.ofNat 10 o)).addr.toNat ≤ 0x03F ∨
        0x080 ≤ (readOf (BitVec.ofNat 10 o)).addr.toNat ∧ (readOf (BitVec.ofNat 10 o)).addr.toNat ≤ 0x0FF ∨
        0x300 ≤ (readOf (BitVec.ofNat 10 o)).addr.toNat ∧ (readOf (BitVec.ofNat 10 o)).addr.toNat ≤ 0x3FF) := by
  decide

theorem witness_ReadOnlyWriteIsRejected : ∃ t, exec (.wrKrom 63 5 0) State.reset = .next t ∧ t.errcode = 4#4 :=
  ⟨_, rfl, by decide⟩

theorem witness_StatusReadShowsItsFields : Inv (runningAt 0) ∧ (runningAt 0).busy = true :=
  ⟨runningAt_inv 0 (by decide), rfl⟩

theorem witness_ControlWriteSetsTheEnables :
    (0b0001#4).getLsbD 0 = true ∧ (0b1110#4).getLsbD 0 = false ∧ (0x00000001#32).getLsbD 0 = true ∧
    doneState.done = true := by decide

/-- The clauses of `StateWriteMergesTheEnabledLanes` and `MsgWriteMergesTheEnabledLanes`: a strobe that is not zero, BUSY,
and idle, at the last words and the outer lanes. -/
theorem witness_StateAndMsgWritesMergeTheEnabledLanes :
    (0b1000#4 : Strobe) ≠ 0#4 ∧ busyState.busy = true ∧ doneState.busy = false ∧
    (after (exec (.wrState 3 0xAABBCCDD 0b1000) doneState)).map (·.chainWord 3) = some 0xAA42F8EC ∧
    (after (exec (.wrMsg 15 0xAABBCCDD 0b0001) doneState)).map (·.msgWord 15) = some 0x000000DD := by decide

/-- R108's example, and block byte 63 at the top lane of MSG[15]. -/
theorem witness_ByteWriteSetsOneBlockByte :
    State.reset.busy = false ∧ scriptAccesses [] [.wrb 63 0x61] = [writeOf 0x07C 0x61000000 0b1000] ∧
    (after (hostStep (writeOf 0x07C 0x61000000 0b1000) State.reset)).map (·.blockByte 63) = some 0x61 := by decide

/-- A byte outside the one that is stored to, in the same word. -/
theorem witness_WriteLeavesOtherWindowBytes :
    (writeOf 0x044 0x00006100 0b0010).we = true ∧ storedByte (writeOf 0x044 0x00006100 0b0010) 0x045 = true ∧
    storedByte (writeOf 0x044 0x00006100 0b0010) 0x046 = false ∧ statusByte 0x046 = false := by decide

theorem witness_ReadsAndRoundsLeaveTheWindow :
    (readOf 0x07C).we = false ∧ errorOf busyState (readOf 0x07C) = none ∧
    errorOf busyState (readOf 0x080) ≠ none ∧ statusByte 0x013 = false ∧ statusByte 0x018 = false := by decide

theorem witness_AcceptedWritesAreIdempotent :
    (writeOf 0x00C 5 0b0101).we = true ∧ (writeOf 0x00C 5 0b0101).addr.toNat % 4 = 0 ∧
    (0x00C : Offset).inBlockOrState = true ∧ doneState.busy = false ∧ (0x07C : Offset).inBlockOrState = true ∧
    (0x07C : Offset).toNat % 4 = 0 ∧ (writeOf 0x018 3 1).addr = 0x018#10 ∧ (0x018 : Offset).toNat % 4 = 0 := by decide

theorem witness_CompressIsAcceptedWhileIdle : doneState.busy = false ∧ busyState.busy = true := by decide

theorem witness_IllegalCommandIsRejected :
    ¬ ((0b1111#4 : Strobe) = 0b1111#4 ∧ (3#32).toNat ≤ 2) ∧ ¬ ((0b0001#4 : Strobe) = 0b1111#4 ∧ (1#32).toNat ≤ 2) := by
  decide

theorem witness_CommandWriteRunsItsCommand :
    decode (.cmd 1 0b1111) = .ok .compress ∧ decode (.cmd 0xFFFFFFFF 0) = .ok (.cmdIllegal 0xFFFFFFFF 0) := by decide

/-- The bit of `RoundFunctionsFollowTheTruthTable` and of `GIsItsCarryFreeSum`. -/
theorem witness_RoundFunctionsFollowTheTruthTable : (31 : Nat) < 32 := by decide

theorem witness_SequencerRoundRunsItsMicroOperation :
    (runningAt 63).busy = true ∧ (runningAt 63).rc.toNat = (63#6).toNat := by decide +kernel

theorem witness_FeedforwardAddsTheWorkingRegisters : busyState.busy = true := by decide

/-- A round, and the feed-forward at the end of the rounds, from states that meet the invariant. -/
theorem witness_EveryStepKeepsTheInvariant :
    (Inv (runningAt 63) ∧ ∃ t, step (runningAt 63) = .next t) ∧ (Inv (runningAt 64) ∧ ∃ t, step (runningAt 64) = .next t) :=
  ⟨⟨runningAt_inv 63 (by decide), _, rfl⟩, runningAt_inv 64 (by decide), _, rfl⟩

theorem witness_NoStepStops : Inv (runningAt 64) := runningAt_inv 64 (by decide)

/-- STATE changes by a host write, by a feed-forward and by a reset edge. -/
theorem witness_OnlyItsWritersChangeState :
    (∃ t, step (scheduled [.host (writeOf 0x00C 5 1)] State.reset) = .next t ∧ t.chain ≠ State.reset.chain) ∧
    (∃ t, step { busyState with rc := 64 } = .next t ∧ t.chain ≠ busyState.chain) ∧
    (∃ t, step (scheduled [.clock ⟨false, false, readOf 0⟩] busyState) = .next t ∧ t.chain ≠ busyState.chain) :=
  ⟨⟨_, rfl, by decide⟩, ⟨_, rfl, by decide⟩, ⟨_, rfl, by decide⟩⟩

/-- MSG changes by a host write and by a reset edge. -/
theorem witness_OnlyTheHostChangesMsg :
    (∃ t, step (scheduled [.host (writeOf 0x07C 5 1)] State.reset) = .next t ∧ t.msg ≠ State.reset.msg) ∧
    (∃ t, step (scheduled [.clock ⟨false, false, readOf 0⟩] busyState) = .next t ∧ t.msg ≠ busyState.msg) :=
  ⟨⟨_, rfl, by decide⟩, ⟨_, rfl, by decide⟩⟩

theorem witness_OnlyTheHostChangesControl :
    ∃ t, step (scheduled [.clock ⟨true, true, writeOf 0x018 2 1⟩] busyState) = .next t ∧
      (t.die, t.eie) ≠ (busyState.die, busyState.eie) := ⟨_, rfl, by decide⟩

theorem witness_FirstErrorSticks :
    (∃ t, step (scheduled [.host (readOf 0x042)] errorState) = .next t ∧ t.errovf = true) ∧ errorState.errcode ≠ 0#4 ∧
    (scheduled [.host (readOf 0x042)] errorState).resets = false ∧
    (scheduled [.host (readOf 0x042)] errorState).presented = some (readOf 0x042) ∧
    (readOf 0x042).isCommand 2 = false := ⟨⟨_, rfl, by decide⟩, by decide⟩

/-- DONE is set by a feed-forward; an ACK and a COMPRESS clear it. -/
theorem witness_DoneFollowsItsRule :
    (∃ t, step { busyState with rc := 64 } = .next t ∧ busyState.done = false ∧ t.done = true) ∧
    (∃ t, step (scheduled [.host (writeOf 0x010 2 0xF)] doneState) = .next t ∧ doneState.done = true ∧ t.done = false) ∧
    (∃ t, step (scheduled [.host (writeOf 0x010 1 0xF)] doneState) = .next t ∧ t.done = false) :=
  ⟨⟨_, rfl, by decide⟩, ⟨_, rfl, by decide⟩, ⟨_, rfl, by decide⟩⟩

/-- BUSY is set by a COMPRESS; a feed-forward and a reset edge clear it. -/
theorem witness_BusyFollowsItsRule :
    (∃ t, step (scheduled [.host (writeOf 0x010 1 0xF)] doneState) = .next t ∧ doneState.busy = false ∧ t.busy = true) ∧
    (∃ t, step { busyState with rc := 64 } = .next t ∧ busyState.busy = true ∧ t.busy = false) ∧
    (∃ t, step (scheduled [.clock ⟨false, false, readOf 0⟩] busyState) = .next t ∧ t.busy = false) :=
  ⟨⟨_, rfl, by decide⟩, ⟨_, rfl, by decide⟩, ⟨_, rfl, by decide⟩⟩

theorem witness_HostAccessLeavesACompressionAlone : (runningAt 32).busy = true := rfl

/-- Two states that differ in W and RC. -/
theorem witness_NoProgressIsVisible :
    sameButHidden busyState { busyState with rc := 5, working := ⟨1, 2, 3, 4⟩ } ∧
    ({ busyState with rc := 5, working := ⟨1, 2, 3, 4⟩ } : State) ≠ busyState := ⟨rfl, by decide⟩

theorem witness_CompressIgnoresOldWorkingRegisters : doneState.busy = false := rfl

theorem witness_ResetEdgeClearsTheCell :
    (scheduled [.clock ⟨false, true, readOf 0x014⟩] busyState).inputs = [.clock ⟨false, true, readOf 0x014⟩] ∧
    (⟨false, true, readOf 0x014⟩ : Pins).rstN = false ∧ (readOf 0x014).we = false := by decide

theorem witness_FeedforwardLeavesCompress :
    Inv (runningAt 64) ∧ (runningAt 64).busy = true ∧ (runningAt 64).rc = 64#7 :=
  ⟨runningAt_inv 64 (by decide), rfl, rfl⟩

/-- KAT-1's COMPRESS, with a second COMPRESS and a write to MSG among the sequencer's steps (P5, outcome A). -/
theorem witness_CompressionUnderEveryInterleaving :
    let l : List Stimulus := .host (writeOf 0x010 1 0xF) :: .sequencer :: .host (writeOf 0x040 0xFFFFFFFF 0xF) ::
      List.replicate 63 .sequencer
    doneState.busy = false ∧
    (scheduled (.host (writeOf 0x010 1 0xF) :: (l ++ [.sequencer])) doneState).inputs
      = .host (writeOf 0x010 0x00000001 0b1111) :: (l ++ .sequencer :: []) ∧
    (∀ x ∈ l, x.interleaved = true) ∧ l.count .sequencer = 64 := by decide +kernel

/-- At the first round, and at the feed-forward. -/
theorem witness_UnattendedCompressionFinishes :
    (Inv (runningAt 0) ∧ (runningAt 0).busy = true ∧ (runningAt 0).inputs = []) ∧
    (Inv (runningAt 64) ∧ (runningAt 64).busy = true ∧ (runningAt 64).inputs = []) :=
  ⟨⟨runningAt_inv 0 (by decide), rfl, rfl⟩, runningAt_inv 64 (by decide), rfl, rfl⟩

theorem witness_BlocksThreadThroughState :
    doneState.busy = false ∧
    (scheduled ([emptyBlock, abcBlock].flatMap blockStimuli ++ [.sequencer]) doneState).inputs
      = [emptyBlock, abcBlock].flatMap blockStimuli ++ [.sequencer] ∧
    ([] : List (Vector Word 16)).flatMap blockStimuli ++ [] = [] := ⟨rfl, rfl, rfl⟩

/-- Each of the four parts of a script, with the states its clauses ask for. -/
theorem witness_HostActsOnTheWordsItReads :
    (startScript [.wait] busyState).failed = false ∧ (startScript [.wait] busyState).todo = [.wait] ∧
    (startScript [.awaitIrq] doneState).todo = [.awaitIrq] ∧ doneState.irq = false ∧
    (startScript [.awaitIrq] { doneState with die := true }).cell.irq = true ∧
    (startScript [.expect 0x3FC 0] State.reset).todo = [.expect 0x3FC 0] ∧
    todoLeft [.expect 0x3FC 0] State.reset = some ([], false) ∧
    (todoLeft [.expect 0x3FC 1] State.reset).map (·.2) = some true := by decide

/-- P6: the host procedure without blocks, in nine turns of the host. -/
theorem witness_HostProcedureComputesCompressSeq :
    Inv State.reset ∧ ∃ r, runTurns (List.replicate 9 .host)
      (startScript (hostCompress 0x67452301 0xEFCDAB89 0x98BADCFE 0x10325476 []) State.reset) = .next r ∧ r.todo = [] :=
  ⟨{ rc_le := by decide, rc_idle := fun _ => rfl, exclusive := by decide, code_le := by decide,
     code_none := fun _ => ⟨rfl, rfl⟩, code_cmd := by decide, code_busy := by decide, code_bad := by decide,
     code_align := by decide, progress := nofun }, _, rfl, by decide⟩

theorem witness_CellsShareNothing :
    ∃ q, stepCell (nCells := 2) 0 #v[scheduled [.host (writeOf 0x010 1 0xF)] State.reset, doneState] = .next q ∧
      (1 : Fin 2) ≠ 0 ∧ q[0].busy = true := ⟨_, rfl, by decide⟩

/-- The two ends of a window at 0x40000000, and its neighbours. -/
theorem witness_WindowIsTheAddressesFromItsBase :
    windowOffset 0x40000000 0x40000000 = some 0x000 ∧ windowOffset 0x40000000 0x400003FF = some 0x3FF ∧
    windowOffset 0x40000000 0x40000400 = none ∧ windowOffset 0x40000000 0x3FFFFFFF = none := by decide

end Sys2Proof.Tests
end

section
/-! PROOFS of the family 00_scope: what a run of several steps is, what the sequencer's steps do while BUSY = 1, what a
step fetches, and the three statements about the two agents and the register window. -/

namespace Sys2Proof.Machine

/-! ### Runs of several steps -/

@[simp] theorem andThen_next (s : State) (f : State → Result) : andThen (.next s) f = f s := rfl

@[simp] theorem runSteps_zero (s : State) : runSteps 0 s = .next s := rfl

/-- A run goes on from the state its beginning left. -/
theorem runSteps_add (m n : Nat) (s : State) : runSteps (m + n) s = andThen (runSteps m s) (runSteps n) := by
  induction m generalizing s with
  | zero => rw [Nat.zero_add, runSteps_zero, andThen_next]
  | succ m ih =>
    rw [Nat.succ_add, runSteps, runSteps]
    cases step s with
    | next t => exact ih t
    | fault e => rfl
    | refused e => rfl

/-- One step more, taken last. -/
theorem runSteps_succ_last {n : Nat} {s u : State} (h : runSteps n s = .next u) : runSteps (n + 1) s = step u := by
  rw [runSteps_add, h, andThen_next, runSteps]
  cases step u <;> rfl

/-! ### The sequencer while BUSY = 1 -/

/-- The sequencer runs the instruction RC decodes to (R63). -/
theorem sequencerStep_of_decodeSeq {s : State} {i : Instr} (hb : s.busy = true) (hd : decodeSeq s.rc = .ok i) :
    sequencerStep s = exec i s := by
  simp [sequencerStep, hb, hd]

theorem exec_seqRound {s : State} (hb : s.busy = true) (i : BitVec 6) :
    exec (.seqRound i) s = .next ((s.setWorking (roundAt i s.msg s.working)).setRc (s.rc + 1)) := by
  simp [exec, execSeqRound, hb, runRound_schedule]

theorem exec_seqFeedforward {s : State} (hb : s.busy = true) :
    exec .seqFeedforward s
      = .next (((s.setChain (addWorking s.chain s.working)).setRun false true).setRc 0) := by
  simp [exec, execSeqFeedforward, hb]

/-- A compression of `chain` and `msg` runs in `s`, and rounds 0 to n-1 are done: the part of the invariant that is about
it (R96), with the values at the accept named. -/
structure Compressing (chain : Vector Word 4) (msg : Vector Word 16) (n : Nat) (s : State) : Prop where
  busy       : s.busy = true
  done       : s.done = false
  rc         : s.rc.toNat = n
  chain_eq   : s.chain = chain
  msg_eq     : s.msg = msg
  working_eq : s.working = roundsFrom (workingOf chain) msg n

theorem Inv.compressing {s : State} (hs : Inv s) (hb : s.busy = true) : Compressing s.chain s.msg s.rc.toNat s where
  busy       := hb
  done       := Bool.eq_false_iff.mpr fun hd => hs.exclusive ⟨hb, hd⟩
  rc         := rfl
  chain_eq   := rfl
  msg_eq     := rfl
  working_eq := hs.progress hb

section
variable {chain : Vector Word 4} {msg : Vector Word 16} {n : Nat} {s : State}

/-- Below 64 the sequencer does round n and goes on to the next (R93). -/
theorem Compressing.sequencerStep_round (hs : Compressing chain msg n s) (hn : n < 64) :
    ∃ t, sequencerStep s = .next t ∧ Compressing chain msg (n + 1) t ∧ t.inputs = s.inputs := by
  obtain ⟨hb, hd, rfl, rfl, rfl, hw⟩ := hs
  have hi : s.rc.extractLsb' 0 6 = BitVec.ofNat 6 s.rc.toNat := BitVec.eq_of_toNat_eq (by simp)
  have hseq : decodeSeq s.rc = .ok (.seqRound (s.rc.extractLsb' 0 6)) := by simp [decodeSeq, hn]
  refine ⟨_, (sequencerStep_of_decodeSeq hb hseq).trans (exec_seqRound hb _), ?_, rfl⟩
  exact {
    busy := hb
    done := hd
    rc := by simp; omega
    chain_eq := rfl
    msg_eq := rfl
    working_eq := by rw [roundsFrom_succ, ← hw, ← hi]; rfl }

/-- At 64 the sequencer feeds forward, and the compression is over (R94, R97). -/
theorem Compressing.sequencerStep_feedforward (hs : Compressing chain msg 64 s) :
    ∃ t, sequencerStep s = .next t ∧ t.busy = false ∧ t.done = true ∧ t.chain = compress chain msg ∧ t.msg = msg ∧
      t.rc = 0 ∧ t.inputs = s.inputs := by
  obtain ⟨hb, -, hrc, rfl, rfl, hw⟩ := hs
  have hseq : decodeSeq s.rc = .ok .seqFeedforward := by
    rw [BitVec.eq_of_toNat_eq (y := 64#7) hrc]; rfl
  refine ⟨_, (sequencerStep_of_decodeSeq hb hseq).trans (exec_seqFeedforward hb), rfl, rfl, ?_, rfl, rfl, rfl⟩
  simp [compress_eq, hw]

/-- With an empty schedule every step is the sequencer's, so k steps do k rounds (R11, R145). -/
theorem Compressing.runSteps_rounds (hs : Compressing chain msg n s) (hin : s.inputs = []) {k : Nat}
    (hk : n + k ≤ 64) : ∃ u, runSteps k s = .next u ∧ Compressing chain msg (n + k) u ∧ u.inputs = [] := by
  induction k with
  | zero => exact ⟨s, rfl, hs, hin⟩
  | succ k ih =>
    obtain ⟨u, hrun, hu, huin⟩ := ih (by omega)
    obtain ⟨t, hstep, ht, htin⟩ := hu.sequencerStep_round (by omega)
    exact ⟨t, by rw [runSteps_succ_last hrun, step_empty huin, hstep], ht, htin.trans huin⟩

end

/-- Settles O55: the rounds that are left keep BUSY at 1, and the one step after them is the feed-forward. -/
theorem unattendedCompressionFinishes : Obligations.UnattendedCompressionFinishes := by
  intro s hs hb hin
  have hc := hs.compressing hb
  have hrc := hs.rc_le
  have hlat : Config.compressLatency - s.rc.toNat = (64 - s.rc.toNat) + 1 := by
    simp only [Config.compressLatency]; omega
  rw [hlat]
  constructor
  · intro n hn
    obtain ⟨u, hrun, hu, -⟩ := hc.runSteps_rounds hin (k := n) (by omega)
    exact ⟨u, hrun, hu.busy⟩
  · obtain ⟨u, hrun, hu, huin⟩ := hc.runSteps_rounds hin (k := 64 - s.rc.toNat) (by omega)
    rw [Nat.add_sub_cancel' hrc] at hu
    obtain ⟨t, hstep, hbusy, hdone, hchain, hmsg, -⟩ := hu.sequencerStep_feedforward
    exact ⟨t, by rw [runSteps_succ_last hrun, step_empty huin, hstep], hbusy, hdone, hchain, hmsg⟩

/-! ### What a step fetches -/

section
variable {s : State} {rest : List Stimulus}

theorem State.fetch_host {a : Access} (h : s.inputs = .host a :: rest) : s.fetch = some (.bus a) := by
  simp [State.fetch, h]

theorem State.fetch_clock {p : Pins} (h : s.inputs = .clock p :: rest) : s.fetch = none := by
  simp [State.fetch, h]

/-- The sequencer fetches RC, and only while BUSY = 1 (R63, R92). -/
theorem State.fetch_sequencer (h : s.inputs = [] ∨ s.inputs = .sequencer :: rest) :
    s.fetch = if s.busy then some (.seq s.rc) else none := by
  rcases h with h | h <;> simp [State.fetch, h]

/-- What the sequencer's step does, with the schedule's entry, if there is one, taken off. -/
theorem step_sequencerTurn (h : s.inputs = [] ∨ s.inputs = .sequencer :: rest) :
    step s = sequencerStep (s.setInputs s.inputs.tail) := by
  rcases h with h | h
  · rw [step_empty h, h, List.tail_nil, ← h, State.setInputs_self]
  · rw [step_sequencer h, h, List.tail_cons]

/-- A sequencer's turn that fetches a code runs what the code decodes to. -/
theorem step_of_fetch_sequencer {c : Code} {i : Instr} (h : s.inputs = [] ∨ s.inputs = .sequencer :: rest)
    (hf : s.fetch = some c) (hd : decode c = .ok i) : step s = exec i (s.setInputs s.inputs.tail) := by
  rw [State.fetch_sequencer h] at hf
  cases hb : s.busy with
  | false => simp [hb] at hf
  | true =>
    obtain rfl : Code.seq s.rc = c := by simpa [hb] using hf
    exact (step_sequencerTurn h).trans (sequencerStep_of_decodeSeq hb hd)

end

/-- Settles O6, by cases on the schedule's first entry; a clock edge fetches no single instruction. -/
theorem stepExecutesTheFetchedInstruction : Obligations.StepExecutesTheFetchedInstruction := by
  refine ⟨fun s c i hf hd => ?_, fun s a rest h => State.fetch_host h, fun s rest h hb => ?_⟩
  · match hin : s.inputs with
    | [] => exact hin ▸ step_of_fetch_sequencer (rest := []) (.inl hin) hf hd
    | .sequencer :: rest => exact hin ▸ step_of_fetch_sequencer (.inr hin) hf hd
    | .clock p :: rest => simp [State.fetch_clock hin] at hf
    | .host a :: rest =>
      obtain rfl : Code.bus a = c := by simpa [State.fetch_host hin] using hf
      obtain rfl : decodeBus a = i := by simpa [decode] using hd
      exact step_host hin
  · rw [State.fetch_sequencer h, if_pos hb]

/-! ### The register window -/

theorem windowOffset_eq (base sysAddr : Nat) :
    windowOffset base sysAddr
      = if base ≤ sysAddr ∧ sysAddr < base + 1024 then some (BitVec.ofNat 10 (sysAddr - base)) else none := rfl

/-- Settles O60: below 1024 the distance from the base is the offset, and nothing is cut off (R14). -/
theorem windowIsTheAddressesFromItsBase : Obligations.WindowIsTheAddressesFromItsBase := by
  intro base sysAddr o
  have ho : o.toNat < 1024 := o.isLt
  by_cases h : base ≤ sysAddr ∧ sysAddr < base + 1024
  · rw [windowOffset_eq, if_pos h, Option.some.injEq, ← BitVec.toNat_inj, BitVec.toNat_ofNat]
    omega
  · rw [windowOffset_eq, if_neg h]
    constructor
    · nofun
    · intro e
      omega

end Sys2Proof.Machine
end

section
/-! PROOFS of the family 10_state: what a host access decodes to and can do, what a step can do, the invariant that every
step keeps, who writes each register, and what a host can see. -/

namespace Sys2Proof

/-! ### What an access decodes to -/

/-- The accesses of a kind, by direction and offset (R14, R35, R40). -/
def BusKind.takes (we : Bool) (addr : Offset) : BusKind → Bool
  | .accMisaligned => !addr.aligned
  | .accUnmapped => addr.aligned && addr.unmapped
  | .rdState => !we && addr == stateOffset (addr.extractLsb' 2 2)
  | .wrState => we && addr == stateOffset (addr.extractLsb' 2 2)
  | .rdMsg => !we && addr == msgOffset (addr.extractLsb' 2 4)
  | .wrMsg => we && addr == msgOffset (addr.extractLsb' 2 4)
  | .rdKrom => !we && addr == kromOffset (addr.extractLsb' 2 6)
  | .wrKrom => we && addr == kromOffset (addr.extractLsb' 2 6)
  | .rdSrom => !we && addr == sromOffset (addr.extractLsb' 2 6)
  | .wrSrom => we && addr == sromOffset (addr.extractLsb' 2 6)
  | .rdCmd => !we && addr == cmdOffset
  | .wrCmd => we && addr == cmdOffset
  | .rdStatus => !we && addr == statusOffset
  | .wrStatus => we && addr == statusOffset
  | .rdCtrl => !we && addr == ctrlOffset
  | .wrCtrl => we && addr == ctrlOffset
  | .rdId => !we && addr == idOffset
  | .wrId => we && addr == idOffset

/-- The row table gives a key to a kind that takes its access (R55). -/
theorem busKind_takes : ∀ (we : Bool) (addr : BitVec 10), (busKind (BitVec.ofBool we ++ addr)).takes we addr = true := by
  decide +kernel

/-- What an access decodes to, one case for each kind of R55, with the direction and the offset of its accesses. -/
inductive BusView (a : Access) : Instr → Prop
  | accMisaligned : a.addr.aligned = false → BusView a (.accMisaligned a.we a.addr)
  | accUnmapped : a.addr.aligned = true → a.addr.unmapped = true → BusView a (.accUnmapped a.we a.addr)
  | rdState (n) : a.we = false → a.addr = stateOffset n → BusView a (.rdState n)
  | wrState (n) : a.we = true → a.addr = stateOffset n → BusView a (.wrState n a.wdata a.wstrb)
  | rdMsg (j) : a.we = false → a.addr = msgOffset j → BusView a (.rdMsg j)
  | wrMsg (j) : a.we = true → a.addr = msgOffset j → BusView a (.wrMsg j a.wdata a.wstrb)
  | rdKrom (i) : a.we = false → a.addr = kromOffset i → BusView a (.rdKrom i)
  | wrKrom (i) : a.we = true → a.addr = kromOffset i → BusView a (.wrKrom i a.wdata a.wstrb)
  | rdSrom (i) : a.we = false → a.addr = sromOffset i → BusView a (.rdSrom i)
  | wrSrom (i) : a.we = true → a.addr = sromOffset i → BusView a (.wrSrom i a.wdata a.wstrb)
  | rdCmd : a.we = false → a.addr = cmdOffset → BusView a .rdCmd
  | wrCmd : a.we = true → a.addr = cmdOffset → BusView a (.wrCmd a.wdata a.wstrb)
  | rdStatus : a.we = false → a.addr = statusOffset → BusView a .rdStatus
  | wrStatus : a.we = true → a.addr = statusOffset → BusView a (.wrStatus a.wdata a.wstrb)
  | rdCtrl : a.we = false → a.addr = ctrlOffset → BusView a .rdCtrl
  | wrCtrl : a.we = true → a.addr = ctrlOffset → BusView a (.wrCtrl a.wdata a.wstrb)
  | rdId : a.we = false → a.addr = idOffset → BusView a .rdId
  | wrId : a.we = true → a.addr = idOffset → BusView a (.wrId a.wdata a.wstrb)

theorem decodeBus_view (a : Access) : BusView a (decodeBus a) := by
  have h : (busKind a.key).takes a.we a.addr = true := busKind_takes a.we a.addr
  unfold decodeBus
  cases hk : busKind a.key <;>
    simp only [hk, BusKind.takes, Bool.and_eq_true, Bool.not_eq_true', beq_iff_eq] at h
  case accMisaligned => exact .accMisaligned h
  all_goals constructor; exacts [h.1, h.2]

/-! ### Offsets and command words -/

theorem stateOffset_range : ∀ n : BitVec 2, (stateOffset n).toNat ≤ 0x00C ∧ (stateOffset n).toNat % 4 = 0 := by decide

theorem msgOffset_range : ∀ j : BitVec 4,
    0x040 ≤ (msgOffset j).toNat ∧ (msgOffset j).toNat ≤ 0x07C ∧ (msgOffset j).toNat % 4 = 0 := by decide

theorem kromOffset_readOnly : ∀ i : BitVec 6, (kromOffset i).aligned = true ∧ (kromOffset i).readOnly = true := by
  decide

theorem sromOffset_readOnly : ∀ i : BitVec 6, (sromOffset i).aligned = true ∧ (sromOffset i).readOnly = true := by
  decide

theorem stateOffset_inBlockOrState : ∀ n : BitVec 2,
    (stateOffset n).aligned = true ∧ (stateOffset n).inBlockOrState = true := by decide

theorem msgOffset_inBlockOrState : ∀ j : BitVec 4,
    (msgOffset j).aligned = true ∧ (msgOffset j).inBlockOrState = true := by decide

/-- An offset of STATE or MSG is mapped, is not read-only and is not CMD (R14). -/
theorem Offset.inBlockOrState_excludes : ∀ {addr : BitVec 10}, Offset.inBlockOrState addr = true →
    Offset.unmapped addr = false ∧ Offset.readOnly addr = false ∧ addr ≠ 0x010#10 := by decide +kernel

/-- The legal commands, one by one (R57, R59). -/
theorem legalCommand_iff {word : Word} {strobe : Strobe} :
    legalCommand word strobe = true ↔ strobe = 0b1111#4 ∧ (word = 0#32 ∨ word = 1#32 ∨ word = 2#32) := by
  simp [legalCommand, or_assoc]

/-- A word whose MBZ is 0 and whose OP is at most 2 is 0, 1 or 2 (R57). -/
theorem word_eq_of_fields {word : Word} (hmbz : word.extractLsb' 4 28 = 0#28)
    (hop : (word.extractLsb' 0 4).toNat ≤ 2) : word = 0#32 ∨ word = 1#32 ∨ word = 2#32 := by
  have hhigh := congrArg BitVec.toNat hmbz
  have hw := word.isLt
  simp only [BitVec.extractLsb'_toNat, Nat.shiftRight_eq_div_pow, BitVec.toNat_ofNat] at hhigh hop
  simp only [← BitVec.toNat_inj, BitVec.toNat_ofNat]
  omega

/-- The command decoder by word and strobe: illegal, or one of the three commands (R57, R59). -/
theorem decodeCmd_eq (word : Word) (strobe : Strobe) :
    (legalCommand word strobe = false ∧ decodeCmd word strobe = .cmdIllegal word strobe) ∨
    (strobe = 0b1111#4 ∧ word = 0#32 ∧ decodeCmd word strobe = .nop) ∨
    (strobe = 0b1111#4 ∧ word = 1#32 ∧ decodeCmd word strobe = .compress) ∨
    (strobe = 0b1111#4 ∧ word = 2#32 ∧ decodeCmd word strobe = .ack) := by
  cases hl : legalCommand word strobe with
  | true =>
    obtain ⟨rfl, rfl | rfl | rfl⟩ := legalCommand_iff.mp hl <;> decide
  | false =>
    refine .inl ⟨rfl, if_pos ?_⟩
    by_contra! hfields
    obtain ⟨hs, hmbz, hop⟩ := hfields
    rw [legalCommand_iff.mpr ⟨hs, word_eq_of_fields hmbz hop⟩] at hl
    cases hl

end Sys2Proof

namespace Sys2Proof.Machine

/-- WR.CMD runs the command its word and strobe decode to (R102). -/
theorem exec_wrCmd (wdata : Word) (wstrb : Strobe) (s : State) :
    exec (.wrCmd wdata wstrb) s = exec (decodeCmd wdata wstrb) s := by
  change execWrCmd wdata wstrb s = _
  unfold execWrCmd decodeCmd
  split_ifs <;> rfl

/-- Settles O32: the two decoders split on the same fields, and every command answers. -/
theorem commandWriteRunsItsCommand : Obligations.CommandWriteRunsItsCommand := by
  intro s word strobe i h
  obtain rfl : decodeCmd word strobe = i := by simpa [decode] using h
  exact ⟨exec_wrCmd word strobe s, exec_next _ s⟩

/-! ### The error of an access -/

section
variable {s : State} {a : Access}

theorem errorOf_misaligned (ha : a.addr.aligned = false) : errorOf s a = some 5#4 := by
  simp [errorOf, ha]

theorem errorOf_unmapped (ha : a.addr.aligned = true) (hu : a.addr.unmapped = true) : errorOf s a = some 4#4 := by
  simp [errorOf, ha, hu]

theorem errorOf_readOnly (hwe : a.we = true) (ha : a.addr.aligned = true) (hr : a.addr.readOnly = true) :
    errorOf s a = some 4#4 := by
  simp [errorOf, hwe, ha, hr]

/-- A write to CMD is judged by its word and strobe, and a COMPRESS by BUSY (R102, R104). -/
theorem errorOf_command (hwe : a.we = true) (haddr : a.addr = cmdOffset) :
    errorOf s a = if legalCommand a.wdata a.wstrb = false then some 1
      else if a.wdata = 1#32 ∧ s.busy = true then some 2 else none := by
  have hcmd : cmdOffset.aligned = true ∧ cmdOffset.unmapped = false ∧ cmdOffset.readOnly = false ∧
      cmdOffset.inBlockOrState = false ∧ cmdOffset = 0x010#10 := by decide
  obtain ⟨ha, hu, hr, hi, hc⟩ := hcmd
  simp only [errorOf, hwe, haddr, ha, hu, hr, hi, not_true_eq_false, Bool.false_eq_true, and_false, false_and,
    true_and, ↓reduceIte, Bool.not_eq_true, ← hc]

theorem errorOf_busyWrite (hwe : a.we = true) (ha : a.addr.aligned = true) (hi : a.addr.inBlockOrState = true)
    (hz : a.wstrb ≠ 0#4) (hb : s.busy = true) : errorOf s a = some 3#4 := by
  obtain ⟨hu, hr, hc⟩ := Offset.inBlockOrState_excludes hi
  simp [errorOf, hwe, ha, hi, hz, hb, hu, hr, hc]

end

/-! ### What one access can do -/

section
variable (e : ErrCode) (we : Bool) (addr : Offset) (s : State)

@[simp] theorem rejectAccess_chain : (rejectAccess e we addr s).chain = s.chain := by cases we <;> simp [rejectAccess]
@[simp] theorem rejectAccess_msg : (rejectAccess e we addr s).msg = s.msg := by cases we <;> simp [rejectAccess]
@[simp] theorem rejectAccess_die : (rejectAccess e we addr s).die = s.die := by cases we <;> simp [rejectAccess]
@[simp] theorem rejectAccess_eie : (rejectAccess e we addr s).eie = s.eie := by cases we <;> simp [rejectAccess]
@[simp] theorem rejectAccess_busy : (rejectAccess e we addr s).busy = s.busy := by cases we <;> simp [rejectAccess]
@[simp] theorem rejectAccess_done : (rejectAccess e we addr s).done = s.done := by cases we <;> simp [rejectAccess]
@[simp] theorem rejectAccess_working : (rejectAccess e we addr s).working = s.working := by
  cases we <;> simp [rejectAccess]
@[simp] theorem rejectAccess_rc : (rejectAccess e we addr s).rc = s.rc := by cases we <;> simp [rejectAccess]
@[simp] theorem rejectAccess_errcode : (rejectAccess e we addr s).errcode = (raiseError e addr s).errcode := by
  cases we <;> simp [rejectAccess]
@[simp] theorem rejectAccess_errovf : (rejectAccess e we addr s).errovf = (raiseError e addr s).errovf := by
  cases we <;> simp [rejectAccess]
@[simp] theorem rejectAccess_erraddr : (rejectAccess e we addr s).erraddr = (raiseError e addr s).erraddr := by
  cases we <;> simp [rejectAccess]

end

/-- What an access, if one is presented, can do to the cell: every case with its guards (R33, R34, R102, R123). -/
inductive AccessEffect (s : State) : Option Access → State → Prop
  | stays (p : Option Access) : AccessEffect s p s
  | reads {a : Access} (v : Word) : a.we = false → AccessEffect s (some a) (s.setRdata v)
  | rejects {a : Access} (e : ErrCode) : errorOf s a = some e.code →
      AccessEffect s (some a) (rejectAccess e a.we a.addr s)
  | writesState {a : Access} (n : BitVec 2) : a.we = true → a.addr = stateOffset n → a.wstrb ≠ 0#4 → s.busy = false →
      AccessEffect s (some a) (s.setChainWord n (mergeLanes (s.chainWord n) a.wdata a.wstrb))
  | writesMsg {a : Access} (j : BitVec 4) : a.we = true → a.addr = msgOffset j → a.wstrb ≠ 0#4 → s.busy = false →
      AccessEffect s (some a) (s.setMsgWord j (mergeLanes (s.msgWord j) a.wdata a.wstrb))
  | writesCtrl {a : Access} : a.we = true → a.addr = ctrlOffset → a.wstrb.getLsbD 0 = true →
      AccessEffect s (some a) (s.setCtrl (a.wdata.getLsbD 0) (a.wdata.getLsbD 1))
  | accepts {a : Access} : a.isCommand 1 = true → s.busy = false → AccessEffect s (some a) (accept s)
  | acknowledges {a : Access} : a.isCommand 2 = true → AccessEffect s (some a) (acknowledge s)

section
variable {s t : State} {a : Access}

theorem AccessEffect.rejectsWrite {e : ErrCode} {addr : Offset} (herr : errorOf s a = some e.code) (hwe : a.we = true)
    (haddr : a.addr = addr) : AccessEffect s (some a) (raiseError e addr s) := by
  have h := AccessEffect.rejects e herr
  rwa [haddr, hwe] at h

/-- A write to a register without write access (R117). -/
theorem rejectReadOnly_effect {addr : Offset} (hwe : a.we = true) (haddr : a.addr = addr)
    (hro : addr.aligned = true ∧ addr.readOnly = true) :
    AccessEffect s (some a) (raiseError .badAccess addr s) := by
  obtain ⟨ha, hr⟩ := haddr ▸ hro
  exact .rejectsWrite (errorOf_readOnly hwe ha hr) hwe haddr

/-- A write to STATE or MSG, whose guards come first (R34). -/
theorem guardedWrite_effect {addr : Offset} {write : State → State} (hwe : a.we = true) (haddr : a.addr = addr)
    (hin : addr.aligned = true ∧ addr.inBlockOrState = true)
    (hwrite : a.wstrb ≠ 0#4 → s.busy = false → AccessEffect s (some a) (write s)) :
    AccessEffect s (some a) (guardedWrite a.wstrb addr write s) := by
  obtain ⟨ha, hi⟩ := haddr ▸ hin
  obtain ⟨-, hw⟩ | ⟨hz, hb, hw⟩ | ⟨hz, hb, hw⟩ := guardedWrite_cases a.wstrb addr write s <;> rw [hw]
  · exact .stays _
  · exact .rejectsWrite (errorOf_busyWrite hwe ha hi hz hb) hwe haddr
  · exact hwrite hz hb

/-- The command write, by the command decoded. -/
theorem exec_wrCmd_effect (hwe : a.we = true) (haddr : a.addr = cmdOffset)
    (h : exec (.wrCmd a.wdata a.wstrb) s = .next t) : AccessEffect s (some a) t := by
  have hcommand {word : Word} (hw : a.wdata = word) (hs : a.wstrb = 0b1111#4) : a.isCommand word = true := by
    simp [Access.isCommand, hwe, haddr, hw, hs, cmdOffset]
  rw [exec_wrCmd] at h
  obtain ⟨hl, hd⟩ | ⟨-, -, hd⟩ | ⟨hs, hw, hd⟩ | ⟨hs, hw, hd⟩ := decodeCmd_eq a.wdata a.wstrb <;> rw [hd] at h
  case inl =>
    have herr : errorOf s a = some 1 := by rw [errorOf_command hwe haddr, if_pos hl]
    cases h; exact .rejectsWrite (e := .illegalCmd) herr hwe haddr
  case inr.inl => cases h; exact .stays _
  case inr.inr.inl =>
    cases h
    obtain ⟨hb, hstart⟩ | ⟨hb, hstart⟩ := startCompress_cases s <;> rw [hstart]
    · exact .accepts (hcommand hw hs) hb
    · have herr : errorOf s a = some 2 := by simp [errorOf_command hwe haddr, hw, hs, hb, legalCommand]
      exact .rejectsWrite (e := .cmdWhileBusy) herr hwe haddr
  case inr.inr.inr => cases h; exact .acknowledges (hcommand hw hs)

/-- What a host step can do, said once. -/
theorem hostStep_effect (h : hostStep a s = .next t) : AccessEffect s (some a) t := by
  have hview := decodeBus_view a
  unfold hostStep at h
  generalize decodeBus a = i at h hview
  cases hview with
  | accMisaligned ha => cases h; exact .rejects .misaligned (errorOf_misaligned ha)
  | accUnmapped ha hu => cases h; exact .rejects .badAccess (errorOf_unmapped ha hu)
  | wrState n hwe haddr =>
    cases h; exact guardedWrite_effect hwe haddr (stateOffset_inBlockOrState n) (.writesState n hwe haddr)
  | wrMsg j hwe haddr =>
    cases h; exact guardedWrite_effect hwe haddr (msgOffset_inBlockOrState j) (.writesMsg j hwe haddr)
  | wrCtrl hwe haddr =>
    cases h
    cases hl : a.wstrb.getLsbD 0 with
    | false => exact .stays _
    | true => exact .writesCtrl hwe haddr hl
  | wrCmd hwe haddr => exact exec_wrCmd_effect hwe haddr h
  | wrStatus hwe haddr | wrId hwe haddr => cases h; exact rejectReadOnly_effect hwe haddr (by decide)
  | wrKrom i hwe haddr => cases h; exact rejectReadOnly_effect hwe haddr (kromOffset_readOnly i)
  | wrSrom i hwe haddr => cases h; exact rejectReadOnly_effect hwe haddr (sromOffset_readOnly i)
  | rdState _ hwe | rdMsg _ hwe | rdKrom _ hwe | rdSrom _ hwe | rdCmd hwe | rdStatus hwe | rdCtrl hwe | rdId hwe =>
    cases h; exact .reads _ hwe

end

/-! ### What an access does to each field -/

section
variable {s t : State} {p : Option Access}

/-- While BUSY = 1 no access starts or ends a compression, or moves RC (R95, R96). -/
theorem AccessEffect.keeps_busy_rc (h : AccessEffect s p t) (hb : s.busy = true) : t.busy = true ∧ t.rc = s.rc := by
  cases h with
  | accepts _ hidle => rw [hb] at hidle; cases hidle
  | rejects e _ => simp [hb]
  | _ => exact ⟨hb, rfl⟩

/-- The writers of STATE among the accesses (R15). -/
theorem AccessEffect.chain_cases (h : AccessEffect s p t) : t.chain = s.chain ∨
    ∃ a, p = some a ∧ a.we = true ∧ a.addr.toNat ≤ 0x00C ∧ a.addr.toNat % 4 = 0 ∧ a.wstrb ≠ 0#4 ∧ s.busy = false := by
  cases h with
  | writesState n hwe haddr hz hb =>
    obtain ⟨hle, hal⟩ := haddr ▸ stateOffset_range n
    exact .inr ⟨_, rfl, hwe, hle, hal, hz, hb⟩
  | rejects e _ => exact .inl (by simp)
  | _ => exact .inl rfl

/-- The writers of MSG among the accesses (R17). -/
theorem AccessEffect.msg_cases (h : AccessEffect s p t) : t.msg = s.msg ∨
    ∃ a, p = some a ∧ a.we = true ∧ 0x040 ≤ a.addr.toNat ∧ a.addr.toNat ≤ 0x07C ∧ a.addr.toNat % 4 = 0 ∧
      a.wstrb ≠ 0#4 ∧ s.busy = false := by
  cases h with
  | writesMsg j hwe haddr hz hb =>
    obtain ⟨hge, hle, hal⟩ := haddr ▸ msgOffset_range j
    exact .inr ⟨_, rfl, hwe, hge, hle, hal, hz, hb⟩
  | rejects e _ => exact .inl (by simp)
  | _ => exact .inl rfl

/-- The writers of CTRL among the accesses (R23, R113). -/
theorem AccessEffect.ctrl_cases (h : AccessEffect s p t) : (t.die, t.eie) = (s.die, s.eie) ∨
    ∃ a, p = some a ∧ a.we = true ∧ a.addr = 0x018#10 ∧ a.wstrb.getLsbD 0 = true := by
  cases h with
  | writesCtrl hwe haddr hl => exact .inr ⟨_, rfl, hwe, haddr, hl⟩
  | rejects e _ => exact .inl (by simp)
  | _ => exact .inl rfl

/-- No access sets DONE, and an ACK and the accept of a COMPRESS alone clear it (R22). -/
theorem AccessEffect.done_cases (h : AccessEffect s p t) : t.done = s.done ∨
    t.done = false ∧ ∃ a, p = some a ∧ (a.isCommand 2 = true ∨ a.isCommand 1 = true ∧ s.busy = false) := by
  cases h with
  | accepts hcmd hb => exact .inr ⟨rfl, _, rfl, .inr ⟨hcmd, hb⟩⟩
  | acknowledges hcmd => exact .inr ⟨rfl, _, rfl, .inl hcmd⟩
  | rejects e _ => exact .inl (by simp)
  | _ => exact .inl rfl

/-- No access clears BUSY, and the accept of a COMPRESS alone sets it (R22, R91). -/
theorem AccessEffect.busy_cases (h : AccessEffect s p t) : t.busy = s.busy ∨
    t.busy = true ∧ ∃ a, p = some a ∧ a.isCommand 1 = true := by
  cases h with
  | accepts hcmd hb => exact .inr ⟨rfl, _, rfl, hcmd⟩
  | rejects e _ => exact .inl (by simp)
  | _ => exact .inl rfl

/-- What a read can do: it returns a word, or its error is recorded and it returns 0 (R33). -/
theorem AccessEffect.read_cases {a : Access} (h : AccessEffect s (some a) t) (hwe : a.we = false) :
    t = s ∨ (∃ v, t = s.setRdata v) ∨ ∃ e, errorOf s a = some e.code ∧ t = rejectAccess e a.we a.addr s := by
  cases h with
  | stays => exact .inl rfl
  | reads v _ => exact .inr (.inl ⟨v, rfl⟩)
  | rejects e herr => exact .inr (.inr ⟨e, herr, rfl⟩)
  | writesState _ hw | writesMsg _ hw | writesCtrl hw => rw [hwe] at hw; cases hw
  | accepts hcmd | acknowledges hcmd => simp [Access.isCommand, hwe] at hcmd

/-! ### What one step can do -/

/-- What the sequencer does while BUSY = 1 (R93, R94). -/
inductive SequencerEffect (s : State) : State → Prop
  | round : s.rc.toNat < 64 → SequencerEffect s
      ((s.setWorking (roundAt (s.rc.extractLsb' 0 6) s.msg s.working)).setRc (s.rc + 1))
  | feedforward : s.rc = 64#7 → SequencerEffect s
      (((s.setChain (addWorking s.chain s.working)).setRun false true).setRc 0)

theorem sequencerStep_effect (hb : s.busy = true) (h : sequencerStep s = .next t) : SequencerEffect s t := by
  obtain ⟨hb', -⟩ | ⟨-, hrc, hseq⟩ | ⟨-, hrc, hseq⟩ | ⟨-, -, hseq⟩ := sequencerStep_cases s
  · rw [hb] at hb'; cases hb'
  · rw [hseq, exec_seqRound hb] at h; cases h; exact .round hrc
  · rw [hseq, exec_seqFeedforward hb] at h; cases h; exact .feedforward hrc
  · rw [hseq] at h; cases h

section
variable {rest : List Stimulus}

theorem State.sequencerTurn_host {a : Access} (h : s.inputs = .host a :: rest) : s.sequencerTurn = false := by
  simp [State.sequencerTurn, h]

theorem State.sequencerTurn_clock {pins : Pins} (h : s.inputs = .clock pins :: rest) (hr : pins.rstN = true) :
    s.sequencerTurn = s.busy := by
  simp [State.sequencerTurn, h, hr]

theorem State.sequencerTurn_sequencer (h : s.inputs = [] ∨ s.inputs = .sequencer :: rest) :
    s.sequencerTurn = s.busy := by
  rcases h with h | h <;> simp [State.sequencerTurn, h]

/-- While BUSY = 0 the sequencer has no step (R92). -/
theorem sequencerStep_idle (hb : s.busy = false) : sequencerStep s = .next s := by
  simp [sequencerStep, hb]

end

/-- A step is a reset edge, or the access presented, if there is one, and then the sequencer's step if it has the turn
(R11, R137, R142). The schedule loses its first entry. -/
theorem step_split (s : State) :
    (s.resets = true ∧ ∃ pins, step s = .next (resetEdge pins (s.setInputs s.inputs.tail))) ∨
    (s.resets = false ∧ ∃ u, AccessEffect (s.setInputs s.inputs.tail) s.presented u ∧
      step s = if s.sequencerTurn then sequencerStep u else .next u) := by
  have hsequencer {rest : List Stimulus} (h : s.inputs = [] ∨ s.inputs = .sequencer :: rest) :
      step s = if s.sequencerTurn then sequencerStep (s.setInputs s.inputs.tail)
        else .next (s.setInputs s.inputs.tail) := by
    rw [step_sequencerTurn h, State.sequencerTurn_sequencer h]
    split
    · rfl
    · exact sequencerStep_idle (Bool.eq_false_iff.mpr ‹_›)
  match hin : s.inputs with
  | [] =>
    exact .inr ⟨by simp [State.resets, hin], _, .stays _, hin ▸ hsequencer (rest := []) (.inl hin)⟩
  | .sequencer :: rest =>
    exact .inr ⟨by simp [State.resets, hin], _, .stays _, hin ▸ hsequencer (.inr hin)⟩
  | .host a :: rest =>
    obtain ⟨u, hu⟩ := hostStep_next a (s.setInputs rest)
    have hp : s.presented = some a := by simp [State.presented, hin]
    exact .inr ⟨by simp [State.resets, hin], u, hp ▸ hostStep_effect hu,
      by rw [step_host hin, hu, State.sequencerTurn_host hin]; rfl⟩
  | .clock pins :: rest =>
    obtain ⟨hr, hstep⟩ | ⟨hr, u, hu, hstep⟩ := clockEdge_cases pins (s.setInputs rest)
    · exact .inl ⟨by simp [State.resets, hin, hr], pins, by rw [step_clock hin, hstep, List.tail_cons]⟩
    · refine .inr ⟨by simp [State.resets, hin, hr], u, ?_,
        by rw [step_clock hin, hstep, State.sequencerTurn_clock hin hr, State.setInputs_busy]⟩
      cases hv : pins.valid with
      | true => simpa [State.presented, hin, hr, hv] using hostStep_effect (by simpa [hv] using hu)
      | false =>
        obtain rfl : s.setInputs rest = u := by simpa [hv] using hu
        exact .stays _

/-- What a step can do, said once, with its guards. -/
inductive StepEffect (s : State) : State → Prop
  | reset (pins : Pins) : s.resets = true → StepEffect s (resetEdge pins (s.setInputs s.inputs.tail))
  | access {t : State} : s.resets = false → s.sequencerTurn = false →
      AccessEffect (s.setInputs s.inputs.tail) s.presented t → StepEffect s t
  | sequencer {t u : State} : s.resets = false → s.sequencerTurn = true → u.busy = true → u.rc = s.rc →
      AccessEffect (s.setInputs s.inputs.tail) s.presented u → SequencerEffect u t → StepEffect s t

theorem State.busy_of_sequencerTurn (h : s.sequencerTurn = true) : s.busy = true := by
  rw [State.sequencerTurn, Bool.and_eq_true] at h
  exact h.1

theorem step_effect (h : step s = .next t) : StepEffect s t := by
  obtain ⟨hr, pins, hstep⟩ | ⟨hr, u, hacc, hstep⟩ := step_split s <;> rw [hstep] at h
  · cases h; exact .reset pins hr
  · cases hturn : s.sequencerTurn with
    | false => rw [hturn] at h; cases h; exact .access hr hturn hacc
    | true =>
      have hb : s.busy = true := State.busy_of_sequencerTurn hturn
      obtain ⟨hb, hrc⟩ := hacc.keeps_busy_rc hb
      rw [if_pos hturn] at h
      exact .sequencer hr hturn hb hrc hacc (sequencerStep_effect hb h)

/-- A field of the state changes at a reset edge, by the access presented, or by the feed-forward: what a step can do to a
field that the rounds leave. -/
theorem StepEffect.field_cases {α : Type} (field : State → α) (h : StepEffect s t)
    (hround : ∀ (u : State) (w : Working) (rc : BitVec 7), field ((u.setWorking w).setRc rc) = field u) :
    s.resets = true ∧ (∃ pins, t = resetEdge pins (s.setInputs s.inputs.tail)) ∨
    ∃ u, AccessEffect (s.setInputs s.inputs.tail) s.presented u ∧ (field t = field u ∨
      s.feedsForward = true ∧ t = ((u.setChain (addWorking u.chain u.working)).setRun false true).setRc 0) := by
  cases h with
  | reset pins hr => exact .inl ⟨hr, pins, rfl⟩
  | access _ _ hacc => exact .inr ⟨_, hacc, .inl rfl⟩
  | sequencer _ hturn _ hrc hacc hseq =>
    cases hseq with
    | round _ => exact .inr ⟨_, hacc, .inl (hround ..)⟩
    | feedforward h64 => exact .inr ⟨_, hacc, .inr ⟨by simp [State.feedsForward, hturn, ← hrc, h64], rfl⟩⟩

end

/-! ### The invariant, in its two parts -/

/-- The part of the invariant about a compression: BUSY, DONE, RC and W agree with STATE and MSG (R20, R22, R96). -/
structure RunOk (busy done : Bool) (rc : BitVec 7) (working : Working) (chain : Vector Word 4)
    (msg : Vector Word 16) : Prop where
  rc_le     : rc.toNat ≤ 64
  rc_idle   : busy = false → rc = 0#7
  exclusive : ¬ (busy = true ∧ done = true)
  progress  : busy = true → working = roundsFrom (workingOf chain) msg rc.toNat

/-- The part of the invariant about the error fields: they are one of the records of R122. -/
structure RecordOk (code : BitVec 4) (ovf : Bool) (addr : Offset) : Prop where
  code_le    : code.toNat ≤ 5
  code_none  : code = 0#4 → ovf = false ∧ addr = 0#10
  code_cmd   : code = 1#4 ∨ code = 2#4 → addr = 0x010#10
  code_busy  : code = 3#4 → addr.aligned = true ∧ addr.inBlockOrState = true
  code_bad   : code = 4#4 → addr.aligned = true ∧ (addr.unmapped || addr.readOnly) = true
  code_align : code = 5#4 → addr.aligned = false

theorem inv_iff (s : State) : Inv s ↔
    RunOk s.busy s.done s.rc s.working s.chain s.msg ∧ RecordOk s.errcode s.errovf s.erraddr where
  mp h := ⟨⟨h.rc_le, h.rc_idle, h.exclusive, h.progress⟩,
    ⟨h.code_le, h.code_none, h.code_cmd, h.code_busy, h.code_bad, h.code_align⟩⟩
  mpr h := ⟨h.1.rc_le, h.1.rc_idle, h.1.exclusive, h.2.code_le, h.2.code_none, h.2.code_cmd, h.2.code_busy,
    h.2.code_bad, h.2.code_align, h.1.progress⟩

section
variable {busy done : Bool} {rc : BitVec 7} {working : Working} {chain : Vector Word 4} {msg : Vector Word 16}

/-- While BUSY = 0 only RC is bound. -/
theorem runOk_idle (hb : busy = false) (hrc : rc = 0#7) : RunOk busy done rc working chain msg := by
  subst hb hrc
  exact ⟨by decide, fun _ => rfl, by simp, nofun⟩

/-- Right after the accept no round is done (R91). -/
theorem runOk_accepted : RunOk true false 0#7 (workingOf chain) chain msg :=
  ⟨by decide, nofun, by simp, fun _ => rfl⟩

/-- A round takes W to where R97's loop has it one round later (R93). -/
theorem RunOk.round (h : RunOk busy done rc working chain msg) (hb : busy = true) (hrc : rc.toNat < 64) :
    RunOk busy done (rc + 1) (roundAt (rc.extractLsb' 0 6) msg working) chain msg := by
  have hnext : (rc + 1).toNat = rc.toNat + 1 := by simp; omega
  have hindex : rc.extractLsb' 0 6 = BitVec.ofNat 6 rc.toNat := BitVec.eq_of_toNat_eq (by simp)
  refine ⟨by omega, fun hidle => ?_, h.exclusive, fun _ => ?_⟩
  · rw [hb] at hidle; cases hidle
  · rw [hnext, roundsFrom_succ, ← h.progress hb, hindex]

theorem RunOk.clear_done (h : RunOk busy done rc working chain msg) :
    RunOk busy false rc working chain msg where
  rc_le     := h.rc_le
  rc_idle   := h.rc_idle
  exclusive := by simp
  progress  := h.progress

end

theorem recordOk_none : RecordOk 0#4 false 0#10 where
  code_le    := by decide
  code_none  := fun _ => ⟨rfl, rfl⟩
  code_cmd   := by simp
  code_busy  := by simp
  code_bad   := by simp
  code_align := by simp

/-- The error of an access is a record of R122 at the access's offset: the condition under which R124 gives a code is the
field of `RecordOk` about that code, and the fields about the other codes ask nothing. -/
theorem errorOf_recordOk {s : State} {a : Access} {code : BitVec 4} (h : errorOf s a = some code) :
    RecordOk code false a.addr := by
  unfold errorOf at h
  split_ifs at h with hal hun hro hill hcb hwb <;> cases h
  all_goals constructor <;> simp_all

/-- Recording a record of R122 keeps the error fields one of them (R123). -/
theorem raiseError_recordOk {e : ErrCode} {addr : Offset} {s : State} (hs : RecordOk s.errcode s.errovf s.erraddr)
    (he : RecordOk e.code false addr) :
    RecordOk (raiseError e addr s).errcode (raiseError e addr s).errovf (raiseError e addr s).erraddr := by
  by_cases hc : s.errcode = 0#4
  · rw [raiseError_first e addr s hc]
    exact (hs.code_none hc).1 ▸ he
  · rw [raiseError_later e addr s hc]
    exact { hs with code_none := fun h0 => absurd h0 hc }

/-! ### Every part of a step keeps the invariant -/

/-- The schedule is no part of the invariant. -/
theorem Inv.setInputs {s : State} (h : Inv s) (l : List Stimulus) : Inv (s.setInputs l) :=
  (inv_iff _).mpr ((inv_iff s).mp h)

theorem AccessEffect.keeps_inv {s t : State} {p : Option Access} (h : AccessEffect s p t) (hs : Inv s) : Inv t := by
  obtain ⟨hrun, hrec⟩ := (inv_iff s).mp hs
  rw [inv_iff]
  cases h with
  | stays | reads | writesCtrl => exact ⟨hrun, hrec⟩
  | rejects e herr =>
    exact ⟨by simpa using hrun, by simpa using raiseError_recordOk hrec (errorOf_recordOk herr)⟩
  | writesState n _ _ _ hb | writesMsg j _ _ _ hb =>
    exact ⟨runOk_idle hb (hrun.rc_idle hb), hrec⟩
  | accepts => exact ⟨runOk_accepted, hrec⟩
  | acknowledges => exact ⟨hrun.clear_done, recordOk_none⟩

theorem SequencerEffect.keeps_inv {s t : State} (h : SequencerEffect s t) (hs : Inv s) (hb : s.busy = true) : Inv t := by
  obtain ⟨hrun, hrec⟩ := (inv_iff s).mp hs
  rw [inv_iff]
  cases h with
  | round hrc => exact ⟨hrun.round hb hrc, hrec⟩
  | feedforward => exact ⟨runOk_idle rfl rfl, hrec⟩

theorem resetEdge_inv (pins : Pins) (s : State) : Inv (resetEdge pins s) :=
  (inv_iff _).mpr ⟨runOk_idle rfl rfl, recordOk_none⟩

/-- Settles O39: no compression runs, RC is 0 and no error is recorded. -/
theorem resetStateMeetsTheInvariant : Obligations.ResetStateMeetsTheInvariant :=
  (inv_iff _).mpr ⟨runOk_idle rfl rfl, recordOk_none⟩

/-- Settles O38: a reset edge sets the invariant up anew, and the access and the sequencer's step each keep it. -/
theorem everyStepKeepsTheInvariant : Obligations.EveryStepKeepsTheInvariant := by
  intro s t hs h
  have hs' := hs.setInputs s.inputs.tail
  cases step_effect h with
  | reset pins _ => exact resetEdge_inv pins _
  | access _ _ hacc => exact hacc.keeps_inv hs'
  | sequencer _ _ hb _ hacc hseq => exact hseq.keeps_inv (hacc.keeps_inv hs') hb

/-- Where RC is at most 64 the sequencer is not stuck (R63). -/
theorem sequencerStep_next {s : State} (hrc : s.rc.toNat ≤ 64) : ∃ t, sequencerStep s = .next t := by
  obtain ⟨-, h⟩ | ⟨-, -, h⟩ | ⟨-, -, h⟩ | ⟨-, hstuck, -⟩ := sequencerStep_cases s
  · exact ⟨s, h⟩
  · rw [h]; exact exec_next _ s
  · rw [h]; exact exec_next _ s
  · omega

/-- Settles O40: the only stop is an RC past 64, which the invariant, kept by the access before the sequencer's step,
excludes. -/
theorem noStepStops : Obligations.NoStepStops := by
  intro s hs
  obtain ⟨-, pins, hstep⟩ | ⟨-, u, hacc, hstep⟩ := step_split s <;> rw [hstep]
  · exact ⟨_, rfl⟩
  · split
    · exact sequencerStep_next (hacc.keeps_inv (hs.setInputs _)).rc_le
    · exact ⟨u, rfl⟩

/-! ### Who writes which register -/

/-- Settles O41: of the accesses only an idle write to STATE writes it, of the sequencer's steps the feed-forward. -/
theorem onlyItsWritersChangeState : Obligations.OnlyItsWritersChangeState := by
  intro s t h hne
  obtain ⟨hr, -⟩ | ⟨u, hacc, hfield | ⟨hff, -⟩⟩ := (step_effect h).field_cases State.chain fun _ _ _ => rfl
  · exact .inl hr
  · exact .inr (.inr (hacc.chain_cases.resolve_left (hfield ▸ hne)))
  · exact .inr (.inl hff)

/-- Settles O42: of the accesses only an idle write to MSG writes it, and no step of the sequencer does. -/
theorem onlyTheHostChangesMsg : Obligations.OnlyTheHostChangesMsg := by
  intro s t h hne
  obtain ⟨hr, -⟩ | ⟨u, hacc, hfield | ⟨-, rfl⟩⟩ := (step_effect h).field_cases State.msg fun _ _ _ => rfl
  · exact .inl hr
  · exact .inr (hacc.msg_cases.resolve_left (hfield ▸ hne))
  · exact .inr (hacc.msg_cases.resolve_left hne)

/-- Settles O43: of the accesses only a write to CTRL with lane 0 writes DIE and EIE, and no step of the sequencer
does. -/
theorem onlyTheHostChangesControl : Obligations.OnlyTheHostChangesControl := by
  intro s t h hne
  obtain ⟨hr, -⟩ | ⟨u, hacc, hfield | ⟨-, rfl⟩⟩ :=
    (step_effect h).field_cases (fun s => (s.die, s.eie)) fun _ _ _ => rfl
  · exact .inl hr
  · exact .inr (hacc.ctrl_cases.resolve_left (hfield ▸ hne))
  · exact .inr (hacc.ctrl_cases.resolve_left hne)

/-- Settles O45: no access sets DONE, and the feed-forward never leaves it clear. -/
theorem doneFollowsItsRule : Obligations.DoneFollowsItsRule := by
  intro s t h
  obtain ⟨hr, pins, rfl⟩ | ⟨u, hacc, hfield | ⟨hff, rfl⟩⟩ := (step_effect h).field_cases State.done fun _ _ _ => rfl
  · exact ⟨fun _ => nofun, fun _ _ => .inl hr⟩
  · rw [hfield]
    obtain hsame | ⟨hclear, hcmd⟩ := hacc.done_cases
    · rw [hsame, State.setInputs_done]
      exact ⟨fun h0 h1 => absurd h1 (by simp [h0]), fun h1 h0 => absurd h1 (by simp [h0])⟩
    · exact ⟨fun _ h1 => absurd h1 (by simp [hclear]), fun _ _ => .inr hcmd⟩
  · exact ⟨fun _ _ => hff, fun _ => nofun⟩

/-- Settles O46: no access clears BUSY, and the feed-forward never leaves it set. -/
theorem busyFollowsItsRule : Obligations.BusyFollowsItsRule := by
  intro s t h
  obtain ⟨hr, pins, rfl⟩ | ⟨u, hacc, hfield | ⟨hff, rfl⟩⟩ := (step_effect h).field_cases State.busy fun _ _ _ => rfl
  · exact ⟨fun _ => nofun, fun _ _ => .inl hr⟩
  · rw [hfield]
    obtain hsame | ⟨hset, hcmd⟩ := hacc.busy_cases
    · rw [hsame, State.setInputs_busy]
      exact ⟨fun h0 h1 => absurd h1 (by simp [h0]), fun h1 h0 => absurd h1 (by simp [h0])⟩
    · exact ⟨fun _ _ => hcmd, fun _ h0 => absurd h0 (by simp [hset])⟩
  · exact ⟨fun _ => nofun, fun _ _ => .inr hff⟩

/-! ### What a host reads -/

/-- A read looks at STATE, MSG and CTRL, and in STATUS's place alone at STATUS (R33). -/
theorem memRead_congr {s t : State} {addr : Offset} (hchain : t.chain = s.chain) (hmsg : t.msg = s.msg)
    (hctrl : t.ctrlWord = s.ctrlWord) (hstatus : addr.toNat = 0x014 → t.statusWord = s.statusWord) :
    memRead t addr = memRead s addr := by
  by_cases ho : addr.toNat = 0x014
  · simp [memRead, ho, hstatus ho]
  · simp only [memRead, ho, hchain, hmsg, hctrl, ↓reduceIte]

theorem windowByte_congr {s t : State} {b : Offset} (hchain : t.chain = s.chain) (hmsg : t.msg = s.msg)
    (hctrl : t.ctrlWord = s.ctrlWord) (hstatus : statusByte b = true → t.statusWord = s.statusWord) :
    windowByte t b = windowByte s b := by
  have hread : memRead t (BitVec.ofNat 10 (4 * (b.toNat / 4))) = memRead s (BitVec.ofNat 10 (4 * (b.toNat / 4))) := by
    refine memRead_congr hchain hmsg hctrl fun ho => hstatus ?_
    have hb := b.isLt
    rw [BitVec.toNat_ofNat] at ho
    simp only [statusByte, beq_iff_eq]
    omega
  rw [windowByte, windowByte, hread]

theorem exec_seqRound_idle {s : State} (hb : s.busy = false) (i : BitVec 6) : exec (.seqRound i) s = .next s := by
  simp [exec, execSeqRound, hb]

/-- Settles O26: a read changes the error fields at most, and only where it raises an error; a round changes W and RC,
which no register shows. -/
theorem readsAndRoundsLeaveTheWindow : Obligations.ReadsAndRoundsLeaveTheWindow := by
  refine ⟨fun s a hwe => ?_, fun s i => ?_⟩
  · obtain ⟨t, ht⟩ := hostStep_next a s
    refine ⟨t, ht, fun b hb => ?_⟩
    obtain rfl | ⟨v, rfl⟩ | ⟨e, herr, rfl⟩ := (hostStep_effect ht).read_cases hwe
    · rfl
    · exact windowByte_congr rfl rfl rfl fun _ => rfl
    · refine windowByte_congr (by simp) (by simp) (by simp [State.ctrlWord]) fun hs => ?_
      rw [herr, hs] at hb
      simp at hb
  · cases hb : s.busy with
    | false => exact ⟨s, exec_seqRound_idle hb i, fun _ => rfl⟩
    | true => exact ⟨_, exec_seqRound hb i, fun b => windowByte_congr rfl rfl rfl fun _ => rfl⟩

/-! ### The hidden registers -/

/-- The state with other hidden registers. -/
def State.withHidden (s : State) (w : Working) (rc : BitVec 7) : State := (s.setWorking w).setRc rc

theorem sameButHidden_iff {s t : State} : sameButHidden s t ↔ ∃ w rc, t = s.withHidden w rc where
  mp h := ⟨t.working, t.rc, h⟩
  mpr := by rintro ⟨w, rc, rfl⟩; rfl

section
variable (s : State) (w : Working) (rc : BitVec 7)

/-- Recording an error does not look at the hidden registers. -/
theorem raiseError_withHidden (e : ErrCode) (addr : Offset) :
    raiseError e addr (s.withHidden w rc) = (raiseError e addr s).withHidden w rc := by
  have hcode : (s.withHidden w rc).errcode = s.errcode := rfl
  by_cases h : s.errcode = 0#4 <;> simp only [raiseError, hcode, h, ↓reduceIte] <;> rfl

/-- Nor does the rejection of an access. -/
theorem rejectAccess_withHidden (e : ErrCode) (we : Bool) (addr : Offset) :
    sameButHidden (rejectAccess e we addr s) (rejectAccess e we addr (s.withHidden w rc)) := by
  refine sameButHidden_iff.mpr ⟨w, rc, ?_⟩
  cases we <;> simp only [rejectAccess, raiseError_withHidden] <;> rfl

/-- Nor does a guarded write whose write does not. -/
theorem guardedWrite_withHidden (wstrb : Strobe) (addr : Offset) (write : State → State)
    (hw : write (s.withHidden w rc) = (write s).withHidden w rc) :
    sameButHidden (guardedWrite wstrb addr write s) (guardedWrite wstrb addr write (s.withHidden w rc)) := by
  have hbusy : (s.withHidden w rc).busy = s.busy := rfl
  refine sameButHidden_iff.mpr ⟨w, rc, ?_⟩
  by_cases hz : wstrb = 0#4
  · simp only [guardedWrite, hz, ↓reduceIte]
  · cases hb : s.busy <;>
      simp only [guardedWrite, hz, hbusy, hb, Bool.false_eq_true, ↓reduceIte, raiseError_withHidden, hw]

/-- The accept of a COMPRESS overwrites the hidden registers, and its rejection leaves them (R91, R104). -/
theorem startCompress_withHidden : sameButHidden (startCompress s) (startCompress (s.withHidden w rc)) := by
  have hbusy : (s.withHidden w rc).busy = s.busy := rfl
  cases hb : s.busy <;> simp only [startCompress, hbusy, hb, Bool.false_eq_true, ↓reduceIte]
  · rfl
  · exact sameButHidden_iff.mpr ⟨w, rc, raiseError_withHidden ..⟩

/-- A command does not look at the hidden registers. -/
theorem exec_decodeCmd_withHidden (word : Word) (strobe : Strobe) :
    ∃ s' t', exec (decodeCmd word strobe) s = .next s' ∧
      exec (decodeCmd word strobe) (s.withHidden w rc) = .next t' ∧ sameButHidden s' t' := by
  obtain h | h | h | h := decodeCmd_cases word strobe <;> rw [h]
  · exact ⟨_, _, rfl, rfl, rejectAccess_withHidden s w rc .illegalCmd true cmdOffset⟩
  · exact ⟨_, _, rfl, rfl, rfl⟩
  · exact ⟨_, _, rfl, rfl, startCompress_withHidden s w rc⟩
  · exact ⟨_, _, rfl, rfl, rfl⟩

/-- No host access looks at the hidden registers (R21). -/
theorem hostStep_withHidden (a : Access) :
    ∃ s' t', hostStep a s = .next s' ∧ hostStep a (s.withHidden w rc) = .next t' ∧ sameButHidden s' t' := by
  have hview := decodeBus_view a
  unfold hostStep
  generalize decodeBus a = i at hview
  cases hview with
  | accMisaligned | accUnmapped => exact ⟨_, _, rfl, rfl, rejectAccess_withHidden ..⟩
  | wrStatus | wrId | wrKrom | wrSrom => exact ⟨_, _, rfl, rfl, rejectAccess_withHidden s w rc .badAccess true _⟩
  | wrState | wrMsg => exact ⟨_, _, rfl, rfl, guardedWrite_withHidden _ _ _ _ _ _ rfl⟩
  | wrCtrl => exact ⟨_, _, rfl, rfl, by cases a.wstrb.getLsbD 0 <;> rfl⟩
  | wrCmd =>
    rw [exec_wrCmd, exec_wrCmd]
    exact exec_decodeCmd_withHidden s w rc _ _
  | _ => exact ⟨_, _, rfl, rfl, rfl⟩

end

/-- Settles O48: W and RC enter no access, and the word read and irq are functions of the rest. -/
theorem noProgressIsVisible : Obligations.NoProgressIsVisible := by
  refine ⟨fun s t a hst => ?_, fun s i => ?_⟩
  · obtain ⟨w, rc, rfl⟩ := sameButHidden_iff.mp hst
    obtain ⟨s', t', hs, ht, hsame⟩ := hostStep_withHidden s w rc a
    refine ⟨s', t', hs, ht, hsame, ?_⟩
    obtain ⟨w', rc', rfl⟩ := sameButHidden_iff.mp hsame
    exact ⟨rfl, rfl⟩
  · cases hb : s.busy with
    | false => exact ⟨s, exec_seqRound_idle hb i, rfl⟩
    | true => exact ⟨_, exec_seqRound hb i, rfl⟩

/-! ### Right after reset -/

/-- ID, KROM and SROM are constants in every state (R25, R71). -/
theorem readsConstants_always (s : State) : readsConstants s :=
  ⟨⟨_, rfl, rfl⟩, fun _ => ⟨⟨_, rfl, rfl⟩, ⟨_, rfl, rfl⟩⟩⟩

/-- Settles O51: the fields are R29's values, and the constants need no reset. -/
theorem resetValues : Obligations.ResetValues :=
  ⟨rfl, rfl, rfl, rfl, rfl, rfl, readsConstants_always _⟩

end Sys2Proof.Machine
end

section
/-! PROOFS of the family 20_memory: what a read and a write do at each offset, as MemRead and MemWrite give it, the merge
of the byte lanes, and the bytes a write leaves alone. -/

namespace Sys2Proof

/-! ### Offsets by number -/

theorem stateOffset_toNat : ∀ n : BitVec 2, (stateOffset n).toNat = 4 * n.toNat := by decide

theorem msgOffset_toNat : ∀ j : BitVec 4, (msgOffset j).toNat = 0x040 + 4 * j.toNat := by decide

theorem kromOffset_toNat : ∀ i : BitVec 6, (kromOffset i).toNat = 0x100 + 4 * i.toNat := by decide

theorem sromOffset_toNat : ∀ i : BitVec 6, (sromOffset i).toNat = 0x200 + 4 * i.toNat := by decide

theorem ofNat_msgOffset (j : BitVec 4) : BitVec.ofNat 10 (0x040 + 4 * j.toNat) = msgOffset j := by
  rw [← msgOffset_toNat, BitVec.ofNat_toNat, BitVec.setWidth_eq]

theorem ofNat_sromOffset (i : BitVec 6) : BitVec.ofNat 10 (0x200 + 4 * i.toNat) = sromOffset i := by
  rw [← sromOffset_toNat, BitVec.ofNat_toNat, BitVec.setWidth_eq]

theorem Offset.aligned_iff {addr : Offset} : addr.aligned = true ↔ addr.toNat % 4 = 0 := beq_iff_eq

theorem Offset.unmapped_iff {addr : Offset} : addr.unmapped = true ↔
    (0x020 ≤ addr.toNat ∧ addr.toNat ≤ 0x03F) ∨ (0x080 ≤ addr.toNat ∧ addr.toNat ≤ 0x0FF) ∨ 0x300 ≤ addr.toNat := by
  simp [Offset.unmapped, or_assoc]

theorem Offset.readOnly_iff {addr : Offset} : addr.readOnly = true ↔
    addr.toNat = 0x014 ∨ addr.toNat = 0x01C ∨ (0x100 ≤ addr.toNat ∧ addr.toNat ≤ 0x2FF) := by
  simp [Offset.readOnly, or_assoc]

/-- The aligned offsets of STATE and MSG are those of their words (R14). -/
theorem Offset.eq_stateOffset_or_msgOffset : ∀ {addr : BitVec 10}, addr.toNat % 4 = 0 →
    Offset.inBlockOrState addr = true →
    addr = stateOffset (addr.extractLsb' 2 2) ∨ addr = msgOffset (addr.extractLsb' 2 4) := by decide +kernel

/-! ### What a write to a register decodes to -/

section
variable {a : Access}

theorem decodeBus_wrState {n : BitVec 2} (hwe : a.we = true) (haddr : a.addr = stateOffset n) :
    decodeBus a = .wrState n a.wdata a.wstrb := by
  have hkey : ∀ n : BitVec 2, busKind (1#1 ++ stateOffset n) = .wrState ∧ (stateOffset n).extractLsb' 2 2 = n := by
    decide
  obtain ⟨hkind, hn⟩ := hkey n
  simp [decodeBus, Access.key, Access.stateIndex, hwe, haddr, hkind, hn]

theorem decodeBus_wrMsg {j : BitVec 4} (hwe : a.we = true) (haddr : a.addr = msgOffset j) :
    decodeBus a = .wrMsg j a.wdata a.wstrb := by
  have hkey : ∀ j : BitVec 4, busKind (1#1 ++ msgOffset j) = .wrMsg ∧ (msgOffset j).extractLsb' 2 4 = j := by decide
  obtain ⟨hkind, hj⟩ := hkey j
  simp [decodeBus, Access.key, Access.msgIndex, hwe, haddr, hkind, hj]

theorem decodeBus_wrCtrl (hwe : a.we = true) (haddr : a.addr = ctrlOffset) :
    decodeBus a = .wrCtrl a.wdata a.wstrb := by
  have hkind : busKind (1#1 ++ ctrlOffset) = .wrCtrl := by decide
  simp [decodeBus, Access.key, hwe, haddr, hkind]

end

theorem decodeBus_rdSrom : ∀ i : BitVec 6, decodeBus (readOf (sromOffset i)) = .rdSrom i := by decide

/-- The legal commands, by the fields MBZ and OP (R57). -/
theorem legalCommand_iff_fields {word : Word} {strobe : Strobe} : legalCommand word strobe = true ↔
    strobe = 0b1111#4 ∧ word.toNat / 16 = 0 ∧ word.toNat % 16 ≤ 2 := by
  simp only [legalCommand_iff, ← BitVec.toNat_inj, BitVec.toNat_ofNat]
  omega

end Sys2Proof

namespace Sys2Proof.Machine

/-! ### The two ways to write a recorded error -/

section
variable (e : ErrCode) (addr : Offset) (s : State)

theorem recorded_code : recorded e.code addr s = raiseError e addr s := by
  unfold recorded raiseError
  split <;> rfl

theorem recorded_writeWhileBusy : recorded 3 addr s = raiseError .writeWhileBusy addr s :=
  recorded_code .writeWhileBusy addr s

end

/-! ### The lanes of a write -/

section
variable (old wdata : Word) (wstrb : Strobe) (k : Nat)

theorem lane_toNat (w : Word) : (lane w k).toNat = w.toNat / 2 ^ (8 * k) % 256 := by
  simp [lane, Nat.shiftRight_eq_div_pow]

/-- A write with a zero strobe stores nothing (R36). -/
theorem mergeLanes_zero : mergeLanes old wdata 0#4 = old :=
  word_eq_of_lanes _ _ fun k hk => by simp [lane_mergeLanes _ _ _ k hk, mergeLane]

/-- Storing the same lanes again changes nothing (R43). -/
theorem mergeLanes_mergeLanes : mergeLanes (mergeLanes old wdata wstrb) wdata wstrb = mergeLanes old wdata wstrb := by
  refine word_eq_of_lanes _ _ fun k hk => ?_
  rw [lane_mergeLanes _ _ _ k hk, mergeLane]
  split
  · rw [lane_mergeLanes _ _ _ k hk, mergeLane, if_pos ‹_›]
  · rfl

theorem mergeLane_toNat : (mergeLane old wdata wstrb k).toNat =
    if wstrb.getLsbD k then (wdata.toNat / 2 ^ (8 * k)) % 256 else (old.toNat / 2 ^ (8 * k)) % 256 := by
  rw [mergeLane, apply_ite BitVec.toNat, lane_toNat, lane_toNat]

/-- Four bytes put together are the digits of the word to the base 256 (R37). -/
theorem blockWord_eq_ofNat (b0 b1 b2 b3 : Byte) : blockWord b0 b1 b2 b3 =
    BitVec.ofNat 32 (b0.toNat + b1.toNat * 2 ^ 8 + b2.toNat * 2 ^ 16 + b3.toNat * 2 ^ 24) := by
  have h0 := b0.isLt
  have h1 := b1.isLt
  have h2 := b2.isLt
  have h3 := b3.isLt
  refine BitVec.eq_of_toNat_eq ?_
  simp only [blockWord, BitVec.toNat_append, ← Nat.shiftLeft_add_eq_or_of_lt, h0, h1, h2]
  simp only [Nat.shiftLeft_eq, BitVec.toNat_ofNat]
  omega

/-- The merge by numbers is the merge by lanes. -/
theorem mergedWord_eq_mergeLanes : mergedWord old wdata wstrb = mergeLanes old wdata wstrb := by
  have hword : mergeLanes old wdata wstrb = blockWord (mergeLane old wdata wstrb 0) (mergeLane old wdata wstrb 1)
    (mergeLane old wdata wstrb 2) (mergeLane old wdata wstrb 3) := rfl
  rw [hword, blockWord_eq_ofNat, mergedWord]
  simp [List.sum_range_succ, mergeLane_toNat]

end

/-! ### Writing a register word -/

section
variable (s : State)

@[simp] theorem State.setChainWord_self (n : BitVec 2) : s.setChainWord n (s.chainWord n) = s := by
  simp [State.setChainWord, State.chainWord, State.setChain]

@[simp] theorem State.setChainWord_setChainWord (n : BitVec 2) (v w : Word) :
    (s.setChainWord n v).setChainWord n w = s.setChainWord n w := by
  simp [State.setChainWord, State.setChain]

@[simp] theorem State.setMsgWord_self (j : BitVec 4) : s.setMsgWord j (s.msgWord j) = s := by
  simp [State.setMsgWord, State.msgWord, State.setMsg]

@[simp] theorem State.setMsgWord_setMsgWord (j : BitVec 4) (v w : Word) :
    (s.setMsgWord j v).setMsgWord j w = s.setMsgWord j w := by
  simp [State.setMsgWord, State.setMsg]

end

/-! ### MemRead, register by register -/

section
variable (s : State)

theorem memRead_misaligned {addr : Offset} (ha : addr.aligned = false) : memRead s addr = .error 5 := by
  simp [memRead, ← Offset.aligned_iff, ha]

theorem memRead_unmapped {addr : Offset} (ha : addr.aligned = true) (hu : addr.unmapped = true) :
    memRead s addr = .error 4 := by
  rw [Offset.aligned_iff] at ha
  rw [Offset.unmapped_iff] at hu
  simp only [memRead]
  repeat rw [if_neg (by omega)]

theorem memRead_stateOffset (n : BitVec 2) : memRead s (stateOffset n) = .ok (s.chainWord n) := by
  have hn := n.isLt
  have hidx : 4 * n.toNat / 4 % 4 = n.toNat := by omega
  simp only [memRead, stateOffset_toNat, hidx]
  rw [if_neg (by omega), if_pos (by omega), State.chainWord]

theorem memRead_msgOffset (j : BitVec 4) : memRead s (msgOffset j) = .ok (s.msgWord j) := by
  have hj := j.isLt
  have hidx : (0x040 + 4 * j.toNat) / 4 % 16 = j.toNat := by omega
  simp only [memRead, msgOffset_toNat, hidx]
  repeat rw [if_neg (by omega)]
  rw [if_pos (by omega), State.msgWord]

theorem memRead_kromOffset (i : BitVec 6) : memRead s (kromOffset i) = .ok (krom i) := by
  have hi := i.isLt
  have hidx : (0x100 + 4 * i.toNat - 0x100) / 4 = i.toNat := by omega
  simp only [memRead, kromOffset_toNat, hidx]
  repeat rw [if_neg (by omega)]
  rw [if_pos (by omega), krom]

theorem memRead_sromOffset (i : BitVec 6) : memRead s (sromOffset i) = .ok (srom i) := by
  have hi := i.isLt
  have hidx : (0x200 + 4 * i.toNat - 0x200) / 4 = i.toNat := by omega
  simp only [memRead, sromOffset_toNat, hidx]
  repeat rw [if_neg (by omega)]
  rw [if_pos (by omega), srom]

theorem memRead_cmdOffset : memRead s cmdOffset = .ok 0 := rfl
theorem memRead_statusOffset : memRead s statusOffset = .ok s.statusWord := rfl
theorem memRead_ctrlOffset : memRead s ctrlOffset = .ok s.ctrlWord := rfl
theorem memRead_idOffset : memRead s idOffset = .ok idValue := rfl

/-! ### Host reads -/

theorem afterRead_ok {addr : Offset} {v : Word} (h : memRead s addr = .ok v) : afterRead s addr = s.setRdata v := by
  rw [afterRead, h]; rfl

theorem afterRead_error (e : ErrCode) {addr : Offset} (h : memRead s addr = .error e.code) :
    afterRead s addr = rejectAccess e false addr s := by
  simp only [afterRead, h, recorded_code]; rfl

/-- A host read is MemRead (R33). -/
theorem hostStep_read {a : Access} (hwe : a.we = false) : hostStep a s = .next (afterRead s a.addr) := by
  have hview := decodeBus_view a
  unfold hostStep
  generalize decodeBus a = i at hview
  cases hview with
  | accMisaligned ha => rw [hwe, afterRead_error s .misaligned (memRead_misaligned s ha)]; rfl
  | accUnmapped ha hu => rw [hwe, afterRead_error s .badAccess (memRead_unmapped s ha hu)]; rfl
  | rdState n _ haddr => rw [haddr, afterRead_ok s (memRead_stateOffset s n)]; rfl
  | rdMsg j _ haddr => rw [haddr, afterRead_ok s (memRead_msgOffset s j)]; rfl
  | rdKrom i _ haddr => rw [haddr, afterRead_ok s (memRead_kromOffset s i)]; rfl
  | rdSrom i _ haddr => rw [haddr, afterRead_ok s (memRead_sromOffset s i)]; rfl
  | rdCmd _ haddr => rw [haddr, afterRead_ok s (memRead_cmdOffset s)]; rfl
  | rdStatus _ haddr => rw [haddr, afterRead_ok s (memRead_statusOffset s)]; rfl
  | rdCtrl _ haddr => rw [haddr, afterRead_ok s (memRead_ctrlOffset s)]; rfl
  | rdId _ haddr => rw [haddr, afterRead_ok s (memRead_idOffset s)]; rfl
  | wrState _ hw | wrMsg _ hw | wrKrom _ hw | wrSrom _ hw | wrCmd hw | wrStatus hw | wrCtrl hw | wrId hw =>
    rw [hwe] at hw; cases hw

end

/-- Settles O10: the step takes the access off the schedule and reads. -/
theorem hostReadsFollowMemRead : Obligations.HostReadsFollowMemRead := by
  intro s a rest hin hwe
  rw [step_host hin, hostStep_read _ hwe]

/-! ### MemWrite, register by register -/

section
variable (s : State) (wdata : Word) (wstrb : Strobe)

theorem afterWrite_misaligned {addr : Offset} (ha : addr.aligned = false) :
    afterWrite s addr wdata wstrb = raiseError .misaligned addr s := by
  have ho : addr.toNat % 4 ≠ 0 := by simpa [← Offset.aligned_iff] using ha
  rw [afterWrite, if_pos ho]
  exact recorded_code .misaligned addr s

theorem afterWrite_unmapped {addr : Offset} (ha : addr.aligned = true) (hu : addr.unmapped = true) :
    afterWrite s addr wdata wstrb = raiseError .badAccess addr s := by
  rw [afterWrite, if_neg (not_not.mpr (Offset.aligned_iff.mp ha)), if_pos hu]
  exact recorded_code .badAccess addr s

theorem afterWrite_readOnly {addr : Offset} (h : addr.aligned = true ∧ addr.readOnly = true) :
    afterWrite s addr wdata wstrb = raiseError .badAccess addr s := by
  obtain ⟨ha, hr⟩ := h
  cases hu : addr.unmapped with
  | true => exact afterWrite_unmapped s wdata wstrb ha hu
  | false =>
    rw [Offset.aligned_iff] at ha
    rw [Offset.readOnly_iff] at hr
    rw [afterWrite, if_neg (not_not.mpr ha), hu, if_neg Bool.false_ne_true, if_pos (by omega)]
    exact recorded_code .badAccess addr s

theorem afterWrite_stateOffset (n : BitVec 2) : afterWrite s (stateOffset n) wdata wstrb =
    guardedWrite wstrb (stateOffset n) (fun t => t.setChainWord n (mergeLanes (t.chainWord n) wdata wstrb)) s := by
  have hn := n.isLt
  have ho := stateOffset_toNat n
  have hidx : (stateOffset n).toNat / 4 % 4 = n.toNat := by omega
  obtain ⟨hu, -, -⟩ := Offset.inBlockOrState_excludes (stateOffset_inBlockOrState n).2
  simp only [afterWrite, hu, hidx, mergedWord_eq_mergeLanes, recorded_writeWhileBusy, Bool.false_eq_true, ↓reduceIte]
  repeat rw [if_neg (by omega)]
  rw [if_pos (c := (stateOffset n).toNat ≤ 0x00C) (by omega)]
  rfl

theorem afterWrite_msgOffset (j : BitVec 4) : afterWrite s (msgOffset j) wdata wstrb =
    guardedWrite wstrb (msgOffset j) (fun t => t.setMsgWord j (mergeLanes (t.msgWord j) wdata wstrb)) s := by
  have hj := j.isLt
  have ho := msgOffset_toNat j
  have hidx : (msgOffset j).toNat / 4 % 16 = j.toNat := by omega
  obtain ⟨hu, -, -⟩ := Offset.inBlockOrState_excludes (msgOffset_inBlockOrState j).2
  simp only [afterWrite, hu, hidx, mergedWord_eq_mergeLanes, recorded_writeWhileBusy, Bool.false_eq_true, ↓reduceIte]
  repeat rw [if_neg (by omega)]
  rw [if_neg (c := (msgOffset j).toNat ≤ 0x00C) (by omega)]
  rfl

theorem afterWrite_ctrlOffset : afterWrite s ctrlOffset wdata wstrb =
    if wstrb.getLsbD 0 then s.setCtrl (wdata.getLsbD 0) (wdata.getLsbD 1) else s := rfl

theorem afterWrite_cmdOffset : afterWrite s cmdOffset wdata wstrb = afterCommand s wdata wstrb := rfl

/-- The command write of R102 is the command decoded. -/
theorem exec_wrCmd_eq_afterCommand : exec (.wrCmd wdata wstrb) s = .next (afterCommand s wdata wstrb) := by
  rw [exec_wrCmd]
  obtain ⟨hl, hd⟩ | ⟨rfl, rfl, hd⟩ | ⟨rfl, rfl, hd⟩ | ⟨rfl, rfl, hd⟩ := decodeCmd_eq wdata wstrb <;> rw [hd]
  · have hfields : wstrb ≠ 0b1111#4 ∨ wdata.toNat / 16 ≠ 0 ∨ wdata.toNat % 16 > 2 := by
      by_contra! hlegal
      rw [legalCommand_iff_fields.mpr hlegal] at hl
      cases hl
    rw [afterCommand, if_pos hfields]
    exact congrArg Host.Outcome.next (recorded_code .illegalCmd cmdOffset s).symm
  · rfl
  · have hbusy : recorded 2 0x010 s = raiseError .cmdWhileBusy cmdOffset s := recorded_code .cmdWhileBusy cmdOffset s
    change Host.Outcome.next (startCompress s) = .next (if s.busy then recorded 2 0x010 s else accept s)
    rw [hbusy, startCompress]
  · rfl

/-- A host write is MemWrite (R34). -/
theorem hostStep_write {a : Access} (hwe : a.we = true) :
    hostStep a s = .next (afterWrite s a.addr a.wdata a.wstrb) := by
  have hview := decodeBus_view a
  unfold hostStep
  generalize decodeBus a = i at hview
  cases hview with
  | accMisaligned ha => rw [hwe, afterWrite_misaligned s _ _ ha]; rfl
  | accUnmapped ha hu => rw [hwe, afterWrite_unmapped s _ _ ha hu]; rfl
  | wrState n _ haddr => rw [haddr, afterWrite_stateOffset]; rfl
  | wrMsg j _ haddr => rw [haddr, afterWrite_msgOffset]; rfl
  | wrCmd _ haddr => rw [haddr, afterWrite_cmdOffset, exec_wrCmd_eq_afterCommand]
  | wrCtrl _ haddr => rw [haddr, afterWrite_ctrlOffset]; rfl
  | wrStatus _ haddr | wrId _ haddr => rw [haddr, afterWrite_readOnly s _ _ (by decide)]; rfl
  | wrKrom i _ haddr => rw [haddr, afterWrite_readOnly s _ _ (kromOffset_readOnly i)]; rfl
  | wrSrom i _ haddr => rw [haddr, afterWrite_readOnly s _ _ (sromOffset_readOnly i)]; rfl
  | rdState _ hr | rdMsg _ hr | rdKrom _ hr | rdSrom _ hr | rdCmd hr | rdStatus hr | rdCtrl hr | rdId hr =>
    rw [hwe] at hr; cases hr

end

/-- Settles O11: the step takes the access off the schedule and writes. -/
theorem hostWritesFollowMemWrite : Obligations.HostWritesFollowMemWrite := by
  intro s a rest hin hwe
  rw [step_host hin, hostStep_write _ hwe]

/-! ### The schedule ROM -/

/-- The table of R76 against the formulas of its fields (R60, R72 to R74). -/
theorem srom_toNat : ∀ i : BitVec 6, (srom i).toNat = i.toNat / 16
    + 2 ^ 8 * (if i.toNat < 16 then i.toNat % 16 else if i.toNat < 32 then (5 * i.toNat + 1) % 16
        else if i.toNat < 48 then (3 * i.toNat + 5) % 16 else 7 * i.toNat % 16)
    + 2 ^ 16 * (if i.toNat < 16 then [7, 12, 17, 22] else if i.toNat < 32 then [5, 9, 14, 20]
        else if i.toNat < 48 then [4, 11, 16, 23] else [6, 10, 15, 21]).getD (i.toNat % 4) 0 := by decide +kernel

/-- Settles O20: the table's 64 words are the formulas' (R72 to R74, R76), and a read returns its word. -/
theorem sromReadsFollowTheScheduleFormulas : Obligations.SromReadsFollowTheScheduleFormulas := by
  intro s i
  refine ⟨s.setRdata (srom i), rfl, ?_, rfl, srom_toNat i⟩
  rw [ofNat_sromOffset, hostStep, decodeBus_rdSrom]
  rfl

/-! ### Writes to STATE and MSG while idle -/

section
variable {s : State}

/-- While BUSY = 0 the guards leave a write alone that does nothing under a zero strobe. -/
theorem guardedWrite_idle (hb : s.busy = false) (wstrb : Strobe) (addr : Offset) (write : State → State)
    (hz : wstrb = 0#4 → write s = s) : guardedWrite wstrb addr write s = write s := by
  obtain ⟨h0, hw⟩ | ⟨-, hbusy, -⟩ | ⟨-, -, hw⟩ := guardedWrite_cases wstrb addr write s
  · rw [hw, hz h0]
  · rw [hb] at hbusy; cases hbusy
  · exact hw

theorem exec_wrState_idle (hb : s.busy = false) (n : BitVec 2) (wdata : Word) (wstrb : Strobe) :
    exec (.wrState n wdata wstrb) s = .next (s.setChainWord n (mergeLanes (s.chainWord n) wdata wstrb)) := by
  refine congrArg Host.Outcome.next (guardedWrite_idle hb _ _ _ ?_)
  rintro rfl
  rw [mergeLanes_zero, State.setChainWord_self]

theorem exec_wrMsg_idle (hb : s.busy = false) (j : BitVec 4) (wdata : Word) (wstrb : Strobe) :
    exec (.wrMsg j wdata wstrb) s = .next (s.setMsgWord j (mergeLanes (s.msgWord j) wdata wstrb)) := by
  refine congrArg Host.Outcome.next (guardedWrite_idle hb _ _ _ ?_)
  rintro rfl
  rw [mergeLanes_zero, State.setMsgWord_self]

variable {a : Access}

theorem hostStep_wrState_idle {n : BitVec 2} (hwe : a.we = true) (haddr : a.addr = stateOffset n)
    (hb : s.busy = false) :
    hostStep a s = .next (s.setChainWord n (mergeLanes (s.chainWord n) a.wdata a.wstrb)) := by
  rw [hostStep, decodeBus_wrState hwe haddr, exec_wrState_idle hb]

theorem hostStep_wrMsg_idle {j : BitVec 4} (hwe : a.we = true) (haddr : a.addr = msgOffset j)
    (hb : s.busy = false) :
    hostStep a s = .next (s.setMsgWord j (mergeLanes (s.msgWord j) a.wdata a.wstrb)) := by
  rw [hostStep, decodeBus_wrMsg hwe haddr, exec_wrMsg_idle hb]

end

/-- Settles O23: the guards of the write one by one, and while idle the merge lane by lane. -/
theorem msgWriteMergesTheEnabledLanes : Obligations.MsgWriteMergesTheEnabledLanes := by
  intro s j wdata wstrb
  rw [ofNat_msgOffset]
  refine ⟨?_, ?_, ?_, fun hb => ⟨_, exec_wrMsg_idle hb j wdata wstrb, rfl, fun k hk => ?_, fun m hm => ?_⟩⟩
  · rw [hostStep, decodeBus_wrMsg rfl rfl]; rfl
  · rintro rfl; rfl
  · intro hz hb
    rw [recorded_writeWhileBusy]
    simp [exec, execWrMsg, guardedWrite, hz, hb]
  · rw [State.msgWord_setMsgWord, if_pos rfl, lane_mergeLanes _ _ _ k hk, mergeLane]
  · rw [State.msgWord_setMsgWord, if_neg hm.symm]

/-! ### One byte of the block -/

/-- The strobe of `wrb` enables the byte's lane alone. -/
theorem getLsbD_one_shiftLeft : ∀ r < 4, ∀ k < 4, (1#4 <<< r).getLsbD k = decide (k = r) := by decide

/-- The data of `wrb` has the byte in its lane. -/
theorem lane_shiftLeft (imm : Byte) {r : Nat} (hr : r < 4) : lane (imm.setWidth 32 <<< (8 * r)) r = imm := by
  refine BitVec.eq_of_getLsbD_eq fun i hi => ?_
  have hbit : 8 * r + i < 32 := by omega
  rw [lane_getLsbD, BitVec.getLsbD_shiftLeft, Nat.add_sub_cancel_left, BitVec.getLsbD_setWidth]
  simp [hi, hbit, show i < 32 by omega]

/-- The write of `wrb` puts the byte in its lane and leaves the other three (R68). -/
theorem mergeLane_byte (old : Word) (imm : Byte) {r k : Nat} (hr : r < 4) (hk : k < 4) :
    mergeLane old (imm.setWidth 32 <<< (8 * r)) (1#4 <<< r) k = if k = r then imm else lane old k := by
  simp only [mergeLane, getLsbD_one_shiftLeft r hr k hk, decide_eq_true_eq]
  split
  case isTrue h => rw [h, lane_shiftLeft imm hr]
  case isFalse => rfl

theorem State.blockByte_eq (s : State) (m : BitVec 6) :
    s.blockByte m = lane (s.msgWord (m.extractLsb' 2 4)) (m.toNat % 4) := by
  have hlane : (m.extractLsb' 0 2).toNat = m.toNat % 4 := by simp
  rw [State.blockByte, hlane]

/-- A block byte after a merge into a word of MSG (R37). -/
theorem State.blockByte_setMsgWord (s : State) (j : BitVec 4) (wdata : Word) (wstrb : Strobe) (m : BitVec 6) :
    (s.setMsgWord j (mergeLanes (s.msgWord j) wdata wstrb)).blockByte m =
      if j = m.extractLsb' 2 4 then mergeLane (s.msgWord j) wdata wstrb (m.toNat % 4) else s.blockByte m := by
  rw [State.blockByte_eq, State.msgWord_setMsgWord, State.blockByte_eq]
  split
  · exact lane_mergeLanes _ _ _ _ (Nat.mod_lt _ (by decide))
  · rfl

/-- A byte of the block is known by its word and its lane (R37). -/
theorem blockIndex_ext {m n : BitVec 6} (hword : m.extractLsb' 2 4 = n.extractLsb' 2 4)
    (hlane : m.toNat % 4 = n.toNat % 4) : m = n := by
  have hdiv := congrArg BitVec.toNat hword
  simp only [BitVec.extractLsb'_toNat, Nat.shiftRight_eq_div_pow] at hdiv
  rw [← BitVec.toNat_inj]
  omega

/-- Settles O24: the strobe of `wrb` enables one lane of one word, and the data has the byte there. -/
theorem byteWriteSetsOneBlockByte : Obligations.ByteWriteSetsOneBlockByte := by
  intro s n imm hb
  have hlt (m : BitVec 6) : m.toNat % 4 < 4 := Nat.mod_lt _ (by decide)
  refine ⟨_, _, rfl, hostStep_wrMsg_idle rfl rfl hb, rfl, ?_, fun m hm => ?_⟩
  · rw [State.blockByte_setMsgWord, if_pos rfl]
    exact (mergeLane_byte _ imm (hlt n) (hlt n)).trans (if_pos rfl)
  · rw [State.blockByte_setMsgWord]
    split
    case isTrue hword =>
      have hlane : m.toNat % 4 ≠ n.toNat % 4 := fun h => hm (blockIndex_ext hword.symm h)
      rw [hword, State.blockByte_eq]
      exact (mergeLane_byte _ imm (hlt n) (hlt m)).trans (if_neg hlane)
    case isFalse => rfl

/-! ### Repeated writes -/

/-- Settles O27: the merge is idempotent, and so is setting CTRL (R43). -/
theorem acceptedWritesAreIdempotent : Obligations.AcceptedWritesAreIdempotent := by
  intro s a hwe ha h
  obtain ⟨hi, hb⟩ | haddr := h
  · obtain haddr | haddr := Offset.eq_stateOffset_or_msgOffset ha hi
    · refine ⟨_, hostStep_wrState_idle hwe haddr hb, ?_⟩
      rw [hostStep_wrState_idle (s := s.setChainWord _ _) hwe haddr hb, State.chainWord_setChainWord, if_pos rfl,
        mergeLanes_mergeLanes, State.setChainWord_setChainWord]
    · refine ⟨_, hostStep_wrMsg_idle hwe haddr hb, ?_⟩
      rw [hostStep_wrMsg_idle (s := s.setMsgWord _ _) hwe haddr hb, State.msgWord_setMsgWord, if_pos rfl,
        mergeLanes_mergeLanes, State.setMsgWord_setMsgWord]
  · simp only [hostStep, decodeBus_wrCtrl hwe haddr, exec, execWrCtrl]
    refine ⟨_, rfl, ?_⟩
    cases a.wstrb.getLsbD 0 <;> rfl

/-! ### The bytes a write leaves alone -/

/-- A window byte is a byte of the register it lies in, and of nothing else (R33, R36). -/
theorem windowByte_congr_lane {s t : State} {b : Offset}
    (hchain : ∀ n : BitVec 2, b.toNat / 4 = (stateOffset n).toNat / 4 →
      lane (t.chainWord n) (b.toNat % 4) = lane (s.chainWord n) (b.toNat % 4))
    (hmsg : ∀ j : BitVec 4, b.toNat / 4 = (msgOffset j).toNat / 4 →
      lane (t.msgWord j) (b.toNat % 4) = lane (s.msgWord j) (b.toNat % 4))
    (hctrl : b.toNat / 4 = ctrlOffset.toNat / 4 →
      lane t.ctrlWord (b.toNat % 4) = lane s.ctrlWord (b.toNat % 4))
    (hstatus : statusByte b = true → t.statusWord = s.statusWord) : windowByte t b = windowByte s b := by
  obtain ⟨a, hwe, ha⟩ : ∃ a : Access, a.we = false ∧ a.addr = BitVec.ofNat 10 (4 * (b.toNat / 4)) :=
    ⟨readOf _, rfl, rfl⟩
  have hdiv : b.toNat / 4 = a.addr.toNat / 4 := by
    have hb := b.isLt
    rw [ha, BitVec.toNat_ofNat]
    omega
  have hview := decodeBus_view a
  unfold windowByte
  rw [← ha]
  generalize decodeBus a = i at hview
  cases hview with
  | accMisaligned hal => rw [memRead_misaligned t hal, memRead_misaligned s hal]
  | accUnmapped hal hu => rw [memRead_unmapped t hal hu, memRead_unmapped s hal hu]
  | rdState n _ haddr => rw [haddr, memRead_stateOffset, memRead_stateOffset]; exact hchain n (haddr ▸ hdiv)
  | rdMsg j _ haddr => rw [haddr, memRead_msgOffset, memRead_msgOffset]; exact hmsg j (haddr ▸ hdiv)
  | rdKrom i _ haddr => rw [haddr, memRead_kromOffset, memRead_kromOffset]
  | rdSrom i _ haddr => rw [haddr, memRead_sromOffset, memRead_sromOffset]
  | rdCmd _ haddr => rw [haddr, memRead_cmdOffset, memRead_cmdOffset]
  | rdStatus _ haddr =>
    rw [haddr, memRead_statusOffset, memRead_statusOffset, hstatus (by rw [statusByte, hdiv, haddr]; rfl)]
  | rdCtrl _ haddr => rw [haddr, memRead_ctrlOffset, memRead_ctrlOffset]; exact hctrl (haddr ▸ hdiv)
  | rdId _ haddr => rw [haddr, memRead_idOffset, memRead_idOffset]
  | wrState _ hw | wrMsg _ hw | wrKrom _ hw | wrSrom _ hw | wrCmd hw | wrStatus hw | wrCtrl hw | wrId hw =>
    rw [hwe] at hw; cases hw

/-- Above lane 0 the CTRL word is 0 (R23). -/
theorem lane_ctrlWord (s : State) {k : Nat} (hk : 0 < k) : lane s.ctrlWord k = 0#8 := by
  refine BitVec.eq_of_getLsbD_eq fun i hi => ?_
  have hbit : ¬ 8 * k + i < 1 ∧ ¬ 8 * k + i - 1 < 1 := by omega
  obtain ⟨hdie, heie⟩ := hbit
  rw [lane_getLsbD, State.ctrlWord, BitVec.getLsbD_append, BitVec.getLsbD_append]
  simp [hdie, heie]

/-- A lane the strobe does not enable stays (R36). -/
theorem lane_mergeLanes_disabled (old wdata : Word) {wstrb : Strobe} {k : Nat} (hk : k < 4)
    (h : wstrb.getLsbD k = false) : lane (mergeLanes old wdata wstrb) k = lane old k := by
  rw [lane_mergeLanes _ _ _ k hk, mergeLane, h, if_neg Bool.false_ne_true]

/-- Settles O25, by what the access does: a rejection, an accept and an ACK change STATUS at most. -/
theorem writeLeavesOtherWindowBytes : Obligations.WriteLeavesOtherWindowBytes := by
  intro s a hwe
  obtain ⟨t, ht⟩ := hostStep_next a s
  refine ⟨t, ht, fun b hstored hstatus => ?_⟩
  have hk : b.toNat % 4 < 4 := Nat.mod_lt _ (by decide)
  have hdisabled (h : b.toNat / 4 = a.addr.toNat / 4) : a.wstrb.getLsbD (b.toNat % 4) = false := by
    simpa [storedByte, hwe, h] using hstored
  have hoff (h : statusByte b = true) : t.statusWord = s.statusWord := by rw [hstatus] at h; cases h
  cases hostStep_effect ht with
  | stays => rfl
  | reads _ hr => rw [hwe] at hr; cases hr
  | rejects e _ => exact windowByte_congr (by simp) (by simp) (by simp [State.ctrlWord]) hoff
  | accepts | acknowledges => exact windowByte_congr rfl rfl rfl hoff
  | writesState n _ haddr =>
    refine windowByte_congr_lane (fun m hm => ?_) (fun _ _ => rfl) (fun _ => rfl) fun _ => rfl
    rw [State.chainWord_setChainWord]
    split
    case isTrue h => exact h ▸ lane_mergeLanes_disabled _ _ hk (hdisabled (by rw [hm, haddr, h]))
    case isFalse => rfl
  | writesMsg j _ haddr =>
    refine windowByte_congr_lane (fun _ _ => rfl) (fun m hm => ?_) (fun _ => rfl) fun _ => rfl
    rw [State.msgWord_setMsgWord]
    split
    case isTrue h => exact h ▸ lane_mergeLanes_disabled _ _ hk (hdisabled (by rw [hm, haddr, h]))
    case isFalse => rfl
  | writesCtrl _ haddr hl =>
    refine windowByte_congr_lane (fun _ _ => rfl) (fun _ _ => rfl) (fun hc => ?_) fun _ => rfl
    have hpos : 0 < b.toNat % 4 := by
      by_contra h0
      have h := hdisabled (by rw [hc, haddr])
      rw [Nat.eq_zero_of_not_pos h0, hl] at h
      cases h
    rw [lane_ctrlWord _ hpos, lane_ctrlWord _ hpos]

end Sys2Proof.Machine
end

section
/-! PROOFS of the family 30_encoding: that the decoders of the four formats undo the encoder, what each decoder answers by
the numbers of its fields, and the steps that act on a word decoded or read: a command rejected, a round, a host's turn. -/

namespace Sys2Proof

/-! ### The register interface's decoder, offset by offset -/

theorem busKind_misaligned : ∀ (we : Bool) {addr : BitVec 10}, Offset.aligned addr = false →
    busKind (BitVec.ofBool we ++ addr) = .accMisaligned := by decide +kernel

theorem busKind_unmapped : ∀ (we : Bool) {addr : BitVec 10}, Offset.aligned addr = true →
    Offset.unmapped addr = true → busKind (BitVec.ofBool we ++ addr) = .accUnmapped := by decide +kernel

/-- The key and the index field of an offset of STATE (R55). -/
theorem busKind_stateOffset : ∀ (we : Bool) (n : BitVec 2),
    busKind (BitVec.ofBool we ++ stateOffset n) = (if we then .wrState else .rdState) ∧
    (stateOffset n).extractLsb' 2 2 = n := by decide

/-- The key and the index field of an offset of MSG (R55). -/
theorem busKind_msgOffset : ∀ (we : Bool) (j : BitVec 4),
    busKind (BitVec.ofBool we ++ msgOffset j) = (if we then .wrMsg else .rdMsg) ∧
    (msgOffset j).extractLsb' 2 4 = j := by decide

/-- The key and the index field of an offset of KROM (R55). -/
theorem busKind_kromOffset : ∀ (we : Bool) (i : BitVec 6),
    busKind (BitVec.ofBool we ++ kromOffset i) = (if we then .wrKrom else .rdKrom) ∧
    (kromOffset i).extractLsb' 2 6 = i := by decide +kernel

/-- The key and the index field of an offset of SROM (R55). -/
theorem busKind_sromOffset : ∀ (we : Bool) (i : BitVec 6),
    busKind (BitVec.ofBool we ++ sromOffset i) = (if we then .wrSrom else .rdSrom) ∧
    (sromOffset i).extractLsb' 2 6 = i := by decide +kernel

/-- An access decodes to the one instruction its direction and offset fit: the converse of `decodeBus_view`. -/
theorem BusView.decodeBus_eq {a : Access} {i : Instr} (h : BusView a i) : decodeBus a = i := by
  cases h with
  | accMisaligned ha => rw [decodeBus, Access.key, busKind_misaligned a.we ha]
  | accUnmapped ha hu => rw [decodeBus, Access.key, busKind_unmapped a.we ha hu]
  | wrState n hwe haddr => exact decodeBus_wrState hwe haddr
  | wrMsg j hwe haddr => exact decodeBus_wrMsg hwe haddr
  | wrCtrl hwe haddr => exact decodeBus_wrCtrl hwe haddr
  | rdState n hwe haddr =>
    obtain ⟨hkind, hn⟩ := busKind_stateOffset a.we n
    rw [hwe] at hkind
    simp only [decodeBus, Access.key, haddr, hkind, hwe, Access.stateIndex, hn, Bool.false_eq_true, ↓reduceIte]
  | rdMsg j hwe haddr =>
    obtain ⟨hkind, hj⟩ := busKind_msgOffset a.we j
    rw [hwe] at hkind
    simp only [decodeBus, Access.key, haddr, hkind, hwe, Access.msgIndex, hj, Bool.false_eq_true, ↓reduceIte]
  | rdKrom i hwe haddr | wrKrom i hwe haddr =>
    obtain ⟨hkind, hi⟩ := busKind_kromOffset a.we i
    rw [hwe] at hkind
    simp only [decodeBus, Access.key, haddr, hkind, hwe, Access.romIndex, hi, Bool.false_eq_true, ↓reduceIte]
  | rdSrom i hwe haddr | wrSrom i hwe haddr =>
    obtain ⟨hkind, hi⟩ := busKind_sromOffset a.we i
    rw [hwe] at hkind
    simp only [decodeBus, Access.key, haddr, hkind, hwe, Access.romIndex, hi, Bool.false_eq_true, ↓reduceIte]
  | rdCmd hwe haddr | wrCmd hwe haddr | rdStatus hwe haddr | wrStatus hwe haddr | rdCtrl hwe haddr
  | rdId hwe haddr | wrId hwe haddr =>
    rw [decodeBus, Access.key, haddr, hwe]
    rfl

/-! ### The other three decoders -/

theorem decodeCmd_illegal_iff {word : Word} {strobe : Strobe} :
    decodeCmd word strobe = .cmdIllegal word strobe ↔ legalCommand word strobe = false := by
  obtain ⟨hl, hd⟩ | ⟨rfl, rfl, -⟩ | ⟨rfl, rfl, -⟩ | ⟨rfl, rfl, -⟩ := decodeCmd_eq word strobe
  · simp [hl, hd]
  all_goals decide

/-- The fields of an SROM word, by number (R60). -/
theorem sromFields_eq (word : Word) : sromFields word =
    ⟨decodeFn (BitVec.ofNat 2 word.toNat), BitVec.ofNat 4 (word.toNat / 2 ^ 8),
      BitVec.ofNat 5 (word.toNat / 2 ^ 16)⟩ := by
  simp only [sromFields, BitVec.extractLsb', Nat.shiftRight_eq_div_pow, pow_zero, Nat.div_one]

theorem decodeFn_ofNat (n : Nat) : decodeFn (BitVec.ofNat 2 n) =
    if n % 4 = 0 then .f else if n % 4 = 1 then .g else if n % 4 = 2 then .h else .i := by
  simp only [decodeFn, ← BitVec.toNat_inj, BitVec.toNat_ofNat]

theorem packSrom_toNat (fn : BitVec 2) (idx : BitVec 4) (amount : BitVec 5) :
    (packSrom fn idx amount).toNat = fn.toNat + 2 ^ 8 * idx.toNat + 2 ^ 16 * amount.toNat := by
  have hfn := fn.isLt
  have hidx := idx.isLt
  simp only [packSrom, BitVec.toNat_append, BitVec.toNat_ofNat, Nat.zero_mod, Nat.zero_shiftLeft, Nat.zero_or,
    Nat.or_zero, ← Nat.shiftLeft_add_eq_or_of_lt, hfn, hidx]
  omega

/-- The fields of a packed SROM word are those it was packed from: FN, IDX and S do not overlap (R60). -/
theorem sromFields_packSrom (fn : BitVec 2) (idx : BitVec 4) (amount : BitVec 5) :
    sromFields (packSrom fn idx amount) = ⟨decodeFn fn, idx, amount⟩ := by
  have hfn := fn.isLt
  have hidx := idx.isLt
  have hamount := amount.isLt
  rw [sromFields_eq, packSrom_toNat, RoundEntry.mk.injEq]
  refine ⟨congrArg decodeFn (BitVec.eq_of_toNat_eq ?_), BitVec.eq_of_toNat_eq ?_, BitVec.eq_of_toNat_eq ?_⟩ <;>
    rw [BitVec.toNat_ofNat] <;> omega

/-- The micro-operation of a round function (R61). -/
def RoundFn.microOp : RoundFn → BitVec 4 → BitVec 5 → Instr
  | .f => .roundF
  | .g => .roundG
  | .h => .roundH
  | .i => .roundI

theorem decodeSrom_eq (word : Word) :
    decodeSrom word = (sromFields word).fn.microOp (sromFields word).idx (sromFields word).amount := by
  unfold decodeSrom
  cases (sromFields word).fn <;> rfl

theorem decodeSrom_packSrom (fn : BitVec 2) (idx : BitVec 4) (amount : BitVec 5) :
    decodeSrom (packSrom fn idx amount) = (decodeFn fn).microOp idx amount := by
  rw [decodeSrom_eq, sromFields_packSrom]

/-- Below 64 the sequencer is at the round RC counts (R63). -/
theorem decodeSeq_of_lt {rc : BitVec 7} (h : rc.toNat < 64) :
    decodeSeq rc = .ok (.seqRound (BitVec.ofNat 6 rc.toNat)) := if_pos h

theorem decodeSeq_of_gt {rc : BitVec 7} (h : 64 < rc.toNat) : decodeSeq rc = .error .rcUnreachable := by
  have hne : rc ≠ 64#7 := by rintro rfl; exact absurd h (by decide)
  rw [decodeSeq, if_neg (by omega), if_neg hne]

theorem decodeSeq_zero_append (i : BitVec 6) : decodeSeq (0#1 ++ i) = .ok (.seqRound i) := by
  have hrc : (0#1 ++ i).toNat = i.toNat := (BitVec.toNat_append 0#1 i).trans (by simp)
  rw [decodeSeq_of_lt (hrc ▸ i.isLt), hrc, BitVec.ofNat_toNat, BitVec.setWidth_eq]

/-! ### The decoders against the encoder and the tables of the spec -/

/-- Settles O1, format by format: an access by the kind it fits, a command by its word and strobe, a round by the fields
of its SROM word, a sequencer step by RC. -/
theorem everyEncodingDecodesBack : Obligations.EveryEncodingDecodesBack := by
  intro i hwf
  have hbus {a : Access} {i : Instr} (h : BusView a i) : decode (.bus a) = .ok i := congrArg _ h.decodeBus_eq
  cases i with
  | accMisaligned we addr => exact hbus (.accMisaligned (by simpa [Instr.wf] using hwf))
  | accUnmapped we addr =>
    obtain ⟨ha, hu⟩ : addr.aligned = true ∧ addr.unmapped = true := by simpa [Instr.wf] using hwf
    exact hbus (.accUnmapped ha hu)
  | rdState n => exact hbus (.rdState n rfl rfl)
  | wrState n wdata wstrb => exact hbus (.wrState n rfl rfl)
  | rdMsg j => exact hbus (.rdMsg j rfl rfl)
  | wrMsg j wdata wstrb => exact hbus (.wrMsg j rfl rfl)
  | rdKrom i => exact hbus (.rdKrom i rfl rfl)
  | wrKrom i wdata wstrb => exact hbus (.wrKrom i rfl rfl)
  | rdSrom i => exact hbus (.rdSrom i rfl rfl)
  | wrSrom i wdata wstrb => exact hbus (.wrSrom i rfl rfl)
  | rdCmd => exact hbus (.rdCmd rfl rfl)
  | wrCmd wdata wstrb => exact hbus (.wrCmd rfl rfl)
  | rdStatus => exact hbus (.rdStatus rfl rfl)
  | wrStatus wdata wstrb => exact hbus (.wrStatus rfl rfl)
  | rdCtrl => exact hbus (.rdCtrl rfl rfl)
  | wrCtrl wdata wstrb => exact hbus (.wrCtrl rfl rfl)
  | rdId => exact hbus (.rdId rfl rfl)
  | wrId wdata wstrb => exact hbus (.wrId rfl rfl)
  | nop | compress | ack => rfl
  | cmdIllegal word strobe => exact congrArg _ (decodeCmd_illegal_iff.mpr (by simpa [Instr.wf] using hwf))
  | roundF idx amount => exact congrArg _ (decodeSrom_packSrom 0 idx amount)
  | roundG idx amount => exact congrArg _ (decodeSrom_packSrom 1 idx amount)
  | roundH idx amount => exact congrArg _ (decodeSrom_packSrom 2 idx amount)
  | roundI idx amount => exact congrArg _ (decodeSrom_packSrom 3 idx amount)
  | seqRound i => exact decodeSeq_zero_append i
  | seqFeedforward => rfl

theorem ofNat_stateOffset_index : ∀ n : BitVec 2, BitVec.ofNat 2 ((stateOffset n).toNat / 4) = n := by decide

theorem ofNat_msgOffset_index : ∀ j : BitVec 4, BitVec.ofNat 4 ((msgOffset j).toNat / 4) = j := by decide

theorem ofNat_kromOffset_index : ∀ i : BitVec 6, BitVec.ofNat 6 ((kromOffset i).toNat / 4) = i := by decide

theorem ofNat_sromOffset_index : ∀ i : BitVec 6, BitVec.ofNat 6 ((sromOffset i).toNat / 4) = i := by decide

/-- The key of an aligned access is not one of row 1 (R55). -/
theorem aligned_key : ∀ (we : Bool) (addr : BitVec 10), Offset.aligned addr = true →
    (BitVec.ofBool we ++ addr).extractLsb' 0 2 = 0#2 := by decide +kernel

/-- Settles O2: the offset of each kind of access, by number, picks its line of the table. -/
theorem accessKindFollowsTheOffset : Obligations.AccessKindFollowsTheOffset := by
  intro a
  constructor
  · intro h
    exact (BusView.accMisaligned (by simpa [← Offset.aligned_iff] using h)).decodeBus_eq
  · intro h
    refine ⟨busRows_disjoint a.key (aligned_key a.we a.addr (Offset.aligned_iff.mpr h)), ?_⟩
    have hview := decodeBus_view a
    generalize decodeBus a = i at hview
    cases hview with
    | accMisaligned ha => rw [Offset.aligned_iff.mpr h] at ha; cases ha
    | accUnmapped ha hu =>
      obtain ⟨hlo, hhi⟩ | ⟨hlo, hhi⟩ | hlo := Offset.unmapped_iff.mp hu
      · repeat rw [if_neg (by omega)]
        rw [if_pos (by omega)]
      · repeat rw [if_neg (by omega)]
        rw [if_pos (by omega)]
      · repeat rw [if_neg (by omega)]
    | rdState n hwe haddr | wrState n hwe haddr =>
      have hn := n.isLt
      have ho := stateOffset_toNat n
      simp only [haddr, hwe, ofNat_stateOffset_index, Bool.false_eq_true, ↓reduceIte]
      rw [if_pos (by omega)]
    | rdMsg j hwe haddr | wrMsg j hwe haddr =>
      have hj := j.isLt
      have ho := msgOffset_toNat j
      simp only [haddr, hwe, ofNat_msgOffset_index, Bool.false_eq_true, ↓reduceIte]
      repeat rw [if_neg (by omega)]
      rw [if_pos (by omega)]
    | rdKrom i hwe haddr | wrKrom i hwe haddr =>
      have hi := i.isLt
      have ho := kromOffset_toNat i
      simp only [haddr, hwe, ofNat_kromOffset_index, Bool.false_eq_true, ↓reduceIte]
      repeat rw [if_neg (by omega)]
      rw [if_pos (by omega)]
    | rdSrom i hwe haddr | wrSrom i hwe haddr =>
      have hi := i.isLt
      have ho := sromOffset_toNat i
      simp only [haddr, hwe, ofNat_sromOffset_index, Bool.false_eq_true, ↓reduceIte]
      repeat rw [if_neg (by omega)]
      rw [if_pos (by omega)]
    | rdCmd hwe haddr | wrCmd hwe haddr | rdStatus hwe haddr | wrStatus hwe haddr | rdCtrl hwe haddr
    | wrCtrl hwe haddr | rdId hwe haddr | wrId hwe haddr =>
      rw [haddr, hwe]
      rfl

/-- Settles O3: the fields of a legal word are those of 0, 1 and 2, and each of the three is decoded. -/
theorem legalCommandWordsAreThree : Obligations.LegalCommandWordsAreThree := by
  intro word strobe
  have hword (n : Nat) (h : word.toNat = n) : word = BitVec.ofNat 32 n := by simp [← h]
  refine ⟨?_, ?_, fun hs h => ?_, fun hs h => ?_, fun hs h => ?_⟩
  · rw [decodeCmd_illegal_iff, ← legalCommand_iff_fields, Bool.not_eq_true]
  · simp only [← BitVec.toNat_inj, BitVec.toNat_ofNat]
    omega
  all_goals rw [hs, hword _ h]; rfl

/-- Settles O4: each field is a digit range of the word, and FN splits as the word modulo 4 does. -/
theorem sromWordSelectsTheRound : Obligations.SromWordSelectsTheRound := by
  intro word
  simp only [decode, decodeSrom_eq, sromFields_eq, decodeFn_ofNat]
  split_ifs <;> rfl

/-- Settles O5: each word is evaluated. -/
theorem specWordsDecode : Obligations.SpecWordsDecode := by
  unfold Obligations.SpecWordsDecode
  decide

end Sys2Proof

namespace Sys2Proof.Machine

/-! ### The instruction RC or an SROM word selects -/

/-- Above 64 no step of the sequencer is enabled (R63; log entry 6). -/
theorem sequencerStep_stuck {s : State} (hb : s.busy = true) (hrc : 64 < s.rc.toNat) :
    sequencerStep s = .fault .sequencerStuck := by
  simp [sequencerStep, hb, decodeSeq_of_gt hrc]

/-- Settles O7: the schedule gives the step to the sequencer, and RC, by its range, gives the instruction. -/
theorem sequencerStepFollowsTheRoundCounter : Obligations.SequencerStepFollowsTheRoundCounter := by
  intro s rest hin
  have hstep : step s = sequencerStep (s.setInputs rest) := by
    obtain ⟨hin, rfl⟩ | hin := hin
    · rw [step_sequencerTurn (rest := []) (.inl hin), hin, List.tail_nil]
    · exact step_sequencer hin
  rw [hstep]
  refine ⟨fun hb hrc => ?_, fun hb hrc => ?_, fun hb hrc => ?_, fun hb => ?_⟩
  · exact sequencerStep_of_decodeSeq hb (decodeSeq_of_lt hrc)
  · have hrc : s.rc = 64#7 := BitVec.eq_of_toNat_eq hrc
    exact sequencerStep_of_decodeSeq hb (congrArg decodeSeq hrc)
  · exact sequencerStep_stuck hb hrc
  · exact sequencerStep_idle hb

theorem exec_microOp (fn : RoundFn) (idx : BitVec 4) (amount : BitVec 5) (s : State) :
    exec (fn.microOp idx amount) s = .next (runRound fn idx amount (krom s.roundIndex) s) := by
  cases fn <;> rfl

/-- Settles O36: the round SROM[i] selects is run by both, and SEQ.ROUND adds 1 to RC, which cannot wrap below 64. -/
theorem sequencerRoundRunsItsMicroOperation : Obligations.SequencerRoundRunsItsMicroOperation := by
  intro s i hb hrc
  have hi : s.roundIndex = i := BitVec.eq_of_toNat_eq (by simp [State.roundIndex, hrc, i.isLt])
  refine ⟨_, _, _, congrArg _ (decodeSrom_eq (srom i)), exec_microOp .., exec_seqRound hb i, ?_, ?_, rfl⟩
  · rw [hi]; rfl
  · simp; omega

/-! ### An illegal command -/

/-- Settles O31: a write to CMD is decoded and rejected as CMD.ILLEGAL is, and BUSY is not looked at. -/
theorem illegalCommandIsRejected : Obligations.IllegalCommandIsRejected := by
  intro s word strobe h
  have hl : legalCommand word strobe = false := by
    rw [Bool.eq_false_iff, ne_eq, legalCommand_iff_fields]
    rintro ⟨hs, hmbz, hop⟩
    exact h ⟨hs, by omega⟩
  have hexec : exec (.cmdIllegal word strobe) s = .next (recorded 1 0x010 s) :=
    congrArg Host.Outcome.next (recorded_code .illegalCmd cmdOffset s).symm
  have hdecode : decodeBus (writeOf 0x010 word strobe) = .wrCmd word strobe := BusView.decodeBus_eq (.wrCmd rfl rfl)
  refine ⟨hexec, ?_⟩
  rw [hostStep, hdecode, exec_wrCmd, decodeCmd_illegal_iff.mpr hl, hexec]

/-! ### A turn of the host -/

theorem waitAgain_statusWord (s : State) : waitAgain s.statusWord = s.busy := by
  simp only [waitAgain, State.statusWord, BitVec.getLsbD_append]
  simp

theorem readsDone_statusWord (s : State) : readsDone s.statusWord = s.done := by
  simp only [readsDone, State.statusWord, BitVec.getLsbD_append]
  simp

section
variable {r : ScriptRun}

/-- A host's turn at a read takes the cell to where MemRead leaves it (R33). -/
theorem scriptTurn_host_read {addr : Offset} (h : r.access = some (readOf addr)) :
    scriptTurn .host r = .next (r.after (readOf addr) (afterRead r.cell addr)) := by
  have hstep : step (r.cell.setInputs (.host (readOf addr) :: r.cell.inputs)) = .next (afterRead r.cell addr) := by
    rw [step_host rfl, State.setInputs_setInputs, State.setInputs_self, hostStep_read _ rfl]
    rfl
  simp only [scriptTurn, h, ScriptRun.present, hstep]

theorem scriptTurn_host_idle (h : r.access = none) : scriptTurn .host r = .next r := by
  simp only [scriptTurn, h]

theorem ScriptRun.access_failed (hf : r.failed = true) : r.access = none := if_pos hf

theorem ScriptRun.access_cons {op : HostOp} {rest : List HostOp} (hf : r.failed = false) (h : r.todo = op :: rest) :
    r.access = opAccess r.cell.irq op := by
  simp [ScriptRun.access, hf, h]

end

theorem afterRead_statusOffset (s : State) : afterRead s statusOffset = s.setRdata s.statusWord :=
  afterRead_ok s (memRead_statusOffset s)

theorem todoAfter_expect (word : Word) (addr : Offset) (imm : Word) (rest : List HostOp) :
    todoAfter word (.expect addr imm :: rest) =
      if word = imm then (rest, false) else (.expect addr imm :: rest, true) := by
  simp [todoAfter, expectPasses]

/-- Settles O57: the host reads by MemRead, and the word read, BUSY and DONE in STATUS, says what is left of the script. -/
theorem hostActsOnTheWordsItReads : Obligations.HostActsOnTheWordsItReads := by
  intro r rest hf
  have hstatus (ha : r.access = some (readOf statusOffset)) : scriptTurn .host r =
      .next (r.after (readOf statusOffset) (r.cell.setRdata r.cell.statusWord)) := by
    rw [scriptTurn_host_read ha, afterRead_statusOffset]
  refine ⟨fun h => ?_, fun h hirq => ?_, fun h hirq => ?_, fun addr imm h => ?_⟩
  · have hafter : todoAfter r.cell.statusWord r.todo = (if r.cell.busy then .wait :: rest else rest, false) := by
      rw [h, todoAfter, waitAgain_statusWord]
    exact ⟨_, hstatus (r.access_cons hf h), rfl, rfl, rfl, congrArg Prod.snd hafter, congrArg Prod.fst hafter⟩
  · exact scriptTurn_host_idle (by rw [r.access_cons hf h, opAccess, hirq]; rfl)
  · have hafter : todoAfter r.cell.statusWord r.todo = (if r.cell.done then rest else .awaitIrq :: rest, false) := by
      rw [h, todoAfter, readsDone_statusWord]
    have ha : r.access = some (readOf statusOffset) := by rw [r.access_cons hf h, opAccess, if_pos hirq]
    exact ⟨_, hstatus ha, rfl, rfl, rfl, congrArg Prod.snd hafter, congrArg Prod.fst hafter⟩
  · refine ⟨_, scriptTurn_host_read (r.access_cons hf h), rfl, rfl, rfl, fun hw => ?_, fun hw => ?_⟩
    · have hafter : todoAfter (afterRead r.cell addr).rdata r.todo = (rest, false) := by
        rw [h, todoAfter_expect]; exact if_pos hw
      exact ⟨congrArg Prod.snd hafter, congrArg Prod.fst hafter⟩
    · have hafter : todoAfter (afterRead r.cell addr).rdata r.todo = (.expect addr imm :: rest, true) := by
        rw [h, todoAfter_expect]; exact if_neg hw
      have hfailed : (r.after (readOf addr) (afterRead r.cell addr)).failed = true := congrArg Prod.snd hafter
      have hnone := ScriptRun.access_failed hfailed
      exact ⟨hfailed, hnone, scriptTurn_host_idle hnone⟩

end Sys2Proof.Machine
end

section
/-! PROOFS of the family 41_round_functions: the four functions bit by bit, their truth table, G as a sum without carry,
the rotation and the round step as exact arithmetic, and the four round micro-operations. -/

namespace Sys2Proof.Machine

/-! ### The round functions, bit by bit -/

section
variable (x y z : Word) {k : Nat}

/-- F is the select of y or z by x (R78). -/
theorem getLsbD_roundFnF (hk : k < 32) :
    (roundFnF x y z).getLsbD k = if x.getLsbD k then y.getLsbD k else z.getLsbD k := by
  simp only [roundFnF, BitVec.getLsbD_or, BitVec.getLsbD_and, BitVec.getLsbD_not, hk, decide_true, Bool.true_and]
  cases x.getLsbD k <;> simp

/-- G is the select of x or y by z (R79). -/
theorem getLsbD_roundFnG (hk : k < 32) :
    (roundFnG x y z).getLsbD k = if z.getLsbD k then x.getLsbD k else y.getLsbD k := by
  simp only [roundFnG, BitVec.getLsbD_or, BitVec.getLsbD_and, BitVec.getLsbD_not, hk, decide_true, Bool.true_and]
  cases z.getLsbD k <;> simp

/-- H is the parity (R80). -/
theorem getLsbD_roundFnH :
    (roundFnH x y z).getLsbD k = (x.getLsbD k ^^ y.getLsbD k ^^ z.getLsbD k) := by
  simp [roundFnH]

/-- I is the exclusive or of y with x or the complement of z (R81). -/
theorem getLsbD_roundFnI (hk : k < 32) :
    (roundFnI x y z).getLsbD k = (y.getLsbD k ^^ (x.getLsbD k || !z.getLsbD k)) := by
  simp [roundFnI, hk]

end

/-- R82's table of one bit: the eight rows, read from the column bytes, are the four Boolean functions. -/
theorem truthTable_columns : ∀ a b c : Bool,
    let row := 4 * a.toNat + 2 * b.toNat + c.toNat
    (if a then b else c) = (0b11001010#8).getLsbD row ∧ (if c then a else b) = (0b11100100#8).getLsbD row ∧
    (a ^^ b ^^ c) = (0b10010110#8).getLsbD row ∧ (b ^^ (a || !c)) = (0b00111001#8).getLsbD row := by
  decide

/-- Settles O33: bit k of each function is a Boolean function of the three bits k, and its eight rows are R82's. -/
theorem roundFunctionsFollowTheTruthTable : Obligations.RoundFunctionsFollowTheTruthTable := by
  intro x y z k hk
  rw [getLsbD_roundFnF x y z hk, getLsbD_roundFnG x y z hk, getLsbD_roundFnH, getLsbD_roundFnI x y z hk]
  exact truthTable_columns (x.getLsbD k) (y.getLsbD k) (z.getLsbD k)

/-! ### Sums without a carry -/

/-- The two terms of G share no bit, since one lies under z and the other under its complement (R79). -/
theorem roundFnG_terms_disjoint (x y z : Word) : (x &&& z) &&& (y &&& ~~~z) = 0#32 := by
  ext k
  cases hz : z[k] <;> simp [hz]

theorem toNat_add_toNat_lt_of_and_eq_zero {v w : Word} (h : v &&& w = 0#32) : v.toNat + w.toNat < 2 ^ 32 := by
  rw [← BitVec.toNat_add_of_and_eq_zero h]
  exact (v + w).isLt

/-- Settles O34: the terms share no bit, so that their sum is their union and has no carry. -/
theorem gIsItsCarryFreeSum : Obligations.GIsItsCarryFreeSum := by
  intro x y z
  have hdisjoint := roundFnG_terms_disjoint x y z
  exact ⟨rfl, fun _ hk => getLsbD_roundFnG x y z hk, (BitVec.add_eq_or_of_and_eq_zero _ _ hdisjoint).symm, hdisjoint,
    toNat_add_toNat_lt_of_and_eq_zero hdisjoint⟩

/-! ### The round step in exact arithmetic -/

/-- What a rotation shifts out at the top and what it keeps share no bit (R9). -/
theorem rotl32_terms_disjoint (x : Word) (n : Nat) : (x <<< n) &&& (x >>> (32 - n)) = 0#32 := by
  ext k hk
  by_cases h : k < n
  · simp [h]
  · simp [BitVec.getLsbD_of_ge x (32 - n + k) (by omega)]

/-- The rotation in exact arithmetic: the part kept, shifted up, plus the part shifted out, at the bottom (R9). -/
theorem rotl32_toNat (x : Word) (n : Nat) :
    (rotl32 x n).toNat = x.toNat * 2 ^ n % 2 ^ 32 + x.toNat / 2 ^ (32 - n) := by
  have hdisjoint := rotl32_terms_disjoint x n
  rw [rotl32, ← BitVec.add_eq_or_of_and_eq_zero _ _ hdisjoint, BitVec.toNat_add_of_and_eq_zero hdisjoint,
    BitVec.toNat_shiftLeft, BitVec.toNat_ushiftRight, Nat.shiftLeft_eq, Nat.shiftRight_eq_div_pow]

theorem krom_roundIndex (s : State) : krom s.roundIndex = kromTable.getD (s.rc.toNat % 64) 0 := by
  simp [krom, State.roundIndex]

/-- A round writes W alone, and W.b is R83's result, narrowed once for the sum and once for the last addition. -/
theorem runRound_roundResult (fn : RoundFn) (idx : BitVec 4) (amount : BitVec 5) (k : Word) (s : State) :
    RoundResult s (runRound fn idx amount k s) (roundFn fn s.working.b s.working.c s.working.d) (s.msgWord idx) k
      amount.toNat := by
  refine ⟨rfl, rfl, rfl, rfl, ?_⟩
  simp only [runRound, State.setWorking_working, roundStep, BitVec.toNat_add, rotl32_toNat, Nat.mod_add_mod]

theorem exec_microOp_roundResult (fn : RoundFn) (idx : BitVec 4) (amount : BitVec 5) (s : State) :
    ∃ t, exec (fn.microOp idx amount) s = .next t ∧
      RoundResult s t (roundFn fn s.working.b s.working.c s.working.d) (s.msgWord idx)
        (kromTable.getD (s.rc.toNat % 64) 0) amount.toNat := by
  rw [← krom_roundIndex]
  exact ⟨_, exec_microOp fn idx amount s, runRound_roundResult ..⟩

/-- Settles O35: each micro-operation is the round of its function with the constant RC selects. -/
theorem roundMicroOperations : Obligations.RoundMicroOperations := fun s idx amount =>
  ⟨exec_microOp_roundResult .f idx amount s, exec_microOp_roundResult .g idx amount s,
    exec_microOp_roundResult .h idx amount s, exec_microOp_roundResult .i idx amount s⟩

end Sys2Proof.Machine
end

section
/-! PROOFS of the family 42_compression: the accept of a COMPRESS, what a host access leaves of a running compression,
its run under every interleaving, the feed-forward, and the host's load and compression of a sequence of blocks. -/

namespace Sys2Proof.Machine

/-! ### The accept of a COMPRESS -/

section
variable {s : State}

theorem hostStep_compress (s : State) : hostStep (writeOf 0x010 0x00000001 0b1111) s = exec .compress s := by
  have hbus : decodeBus (writeOf 0x010 0x00000001 0b1111) = .wrCmd 1 0b1111 := BusView.decodeBus_eq (.wrCmd rfl rfl)
  have hcmd : decodeCmd 1 0b1111 = .compress := by decide
  rw [hostStep, hbus, exec_wrCmd, hcmd]

theorem exec_compress_idle (hb : s.busy = false) : exec .compress s = .next (accept s) := by
  simp [exec, execCompress, startCompress, hb]

theorem exec_compress_busy (hb : s.busy = true) :
    exec .compress s = .next (raiseError .cmdWhileBusy cmdOffset s) := by
  simp [exec, execCompress, startCompress, hb]

end

/-- Settles O29: the guard of COMPRESS is BUSY, and the accept is R91's load of W from STATE. -/
theorem compressIsAcceptedWhileIdle : Obligations.CompressIsAcceptedWhileIdle := by
  intro s
  refine ⟨hostStep_compress s, fun hb => exec_compress_idle hb, fun hb => ?_⟩
  rw [exec_compress_busy hb, ← recorded_code]
  rfl

/-- Settles O49: the accept writes W and RC without reading them. -/
theorem compressIgnoresOldWorkingRegisters : Obligations.CompressIgnoresOldWorkingRegisters := by
  intro s w rc hb
  have hidden : accept (s.withHidden w rc) = accept s := rfl
  rw [exec_compress_idle hb, ← hidden]
  exact exec_compress_idle hb

/-! ### Host accesses while BUSY = 1 -/

section
variable {s t : State} {p : Option Access}

/-- The accept alone writes W, so no access does while BUSY = 1 (R95). -/
theorem AccessEffect.keeps_working (h : AccessEffect s p t) (hb : s.busy = true) : t.working = s.working := by
  cases h with
  | accepts _ hidle => rw [hb] at hidle; cases hidle
  | rejects e _ => simp
  | _ => rfl

/-- The writes of STATE are refused while BUSY = 1 (R96). -/
theorem AccessEffect.keeps_chain (h : AccessEffect s p t) (hb : s.busy = true) : t.chain = s.chain := by
  obtain hkeep | ⟨_, _, _, _, _, _, hidle⟩ := h.chain_cases
  · exact hkeep
  · rw [hb] at hidle; cases hidle

/-- The writes of MSG are refused while BUSY = 1 (R96). -/
theorem AccessEffect.keeps_msg (h : AccessEffect s p t) (hb : s.busy = true) : t.msg = s.msg := by
  obtain hkeep | ⟨_, _, _, _, _, _, _, hidle⟩ := h.msg_cases
  · exact hkeep
  · rw [hb] at hidle; cases hidle

/-- While BUSY = 1 an ACK alone touches DONE (R105). -/
theorem AccessEffect.done_busy {a : Access} (h : AccessEffect s (some a) t) (hb : s.busy = true) :
    t.done = s.done ∨ a.isCommand 2 = true ∧ t.done = false := by
  obtain hkeep | ⟨hdone, b, hab, hack | ⟨_, hidle⟩⟩ := h.done_cases
  · exact .inl hkeep
  · cases hab; exact .inr ⟨hack, hdone⟩
  · rw [hb] at hidle; cases hidle

end

/-- Settles O47: of what an access can do, all that writes STATE, MSG, W, RC or BUSY asks BUSY = 0. -/
theorem hostAccessLeavesACompressionAlone : Obligations.HostAccessLeavesACompressionAlone := by
  intro s a hb
  obtain ⟨t, hstep⟩ := hostStep_next a s
  have h := hostStep_effect hstep
  obtain ⟨hbusy, hrc⟩ := h.keeps_busy_rc hb
  exact ⟨t, hstep, h.keeps_chain hb, h.keeps_msg hb, h.keeps_working hb, hrc, hbusy, h.done_busy hb⟩

/-! ### The feed-forward -/

/-- Settles O37: each word of STATE takes the sum with its working register, narrowed to 32 bits. -/
theorem feedforwardAddsTheWorkingRegisters : Obligations.FeedforwardAddsTheWorkingRegisters := by
  intro s hb
  refine ⟨_, exec_seqFeedforward hb, rfl, ?_, ?_, ?_, ?_⟩ <;>
    exact BitVec.toNat_add ..

/-- Settles O53: by the invariant W holds what the 64 rounds of R97 make, and the feed-forward adds it. -/
theorem feedforwardLeavesCompress : Obligations.FeedforwardLeavesCompress := by
  intro s hs hb hrc
  have hworking : s.working = roundsFrom (workingOf s.chain) s.msg 64 := by
    have h := hs.progress hb
    rwa [hrc] at h
  refine ⟨_, exec_seqFeedforward hb, ?_, rfl⟩
  rw [compress_eq, ← hworking]
  rfl

/-! ### A compression under every interleaving -/

theorem hostStep_inputs {s t : State} {a : Access} (h : hostStep a s = .next t) : t.inputs = s.inputs := exec_inputs h

/-- A run whose first step is known goes on from where that step left it. -/
theorem runSteps_succ_of_step {n : Nat} {s u : State} (h : step s = .next u) : runSteps (n + 1) s = runSteps n u := by
  rw [runSteps, h, andThen_next]

/-- A run that answers has answered its first step. -/
theorem runSteps_succ_next {n : Nat} {s t : State} (h : runSteps (n + 1) s = .next t) :
    ∃ u, step s = .next u ∧ runSteps n u = .next t := by
  rw [runSteps] at h
  cases hu : step s with
  | next u => rw [hu] at h; exact ⟨u, rfl, h⟩
  | fault e => rw [hu] at h; cases h
  | refused e => rw [hu] at h; cases h

/-- A run whose beginning is known goes on from where that left it. -/
theorem runSteps_add_of_run {m n : Nat} {s u : State} (h : runSteps m s = .next u) :
    runSteps (m + n) s = runSteps n u := by
  rw [runSteps_add, h, andThen_next]

section
variable {chain : Vector Word 4} {msg : Vector Word 16} {n : Nat} {s t : State}

theorem accept_compressing (s : State) : Compressing s.chain s.msg 0 (accept s) :=
  ⟨rfl, rfl, rfl, rfl, rfl, rfl⟩

/-- The schedule is no part of a compression. -/
theorem Compressing.setInputs (hs : Compressing chain msg n s) (l : List Stimulus) :
    Compressing chain msg n (s.setInputs l) :=
  ⟨hs.busy, hs.done, hs.rc, hs.chain_eq, hs.msg_eq, hs.working_eq⟩

/-- An access leaves a running compression where it is (R95, R96). -/
theorem Compressing.access {a : Access} (hs : Compressing chain msg n s) (h : AccessEffect s (some a) t) :
    Compressing chain msg n t := by
  obtain ⟨hbusy, hrc⟩ := h.keeps_busy_rc hs.busy
  exact {
    busy := hbusy
    done := by
      obtain hkeep | ⟨-, hclear⟩ := h.done_busy hs.busy
      · rw [hkeep, hs.done]
      · exact hclear
    rc := by rw [hrc, hs.rc]
    chain_eq := by rw [h.keeps_chain hs.busy, hs.chain_eq]
    msg_eq := by rw [h.keeps_msg hs.busy, hs.msg_eq]
    working_eq := by rw [h.keeps_working hs.busy, hs.working_eq] }

/-- A step of the interleaving does the next round if it is the sequencer's, and none if it is the host's (R11, R95). -/
theorem Compressing.step_interleaved {x : Stimulus} {rest : List Stimulus} (hs : Compressing chain msg n s)
    (hin : s.inputs = x :: rest) (hx : x.interleaved = true) (hn : n + [x].count .sequencer ≤ 64) :
    ∃ t, step s = .next t ∧ Compressing chain msg (n + [x].count .sequencer) t ∧ t.inputs = rest := by
  have hs' := hs.setInputs rest
  cases x with
  | host a =>
    obtain ⟨t, ht⟩ := hostStep_next a (s.setInputs rest)
    exact ⟨t, (step_host hin).trans ht, hs'.access (hostStep_effect ht), hostStep_inputs ht⟩
  | sequencer =>
    obtain ⟨t, ht, hround, htin⟩ := hs'.sequencerStep_round hn
    exact ⟨t, (step_sequencer hin).trans ht, hround, htin⟩
  | clock p => cases hx

/-- Any interleaving does as many rounds as it gives the sequencer steps. -/
theorem Compressing.runSteps_interleaved {l rest : List Stimulus} (hs : Compressing chain msg n s)
    (hin : s.inputs = l ++ rest) (hl : ∀ x ∈ l, x.interleaved = true) (hn : n + l.count .sequencer ≤ 64) :
    ∃ u, runSteps l.length s = .next u ∧ Compressing chain msg (n + l.count .sequencer) u ∧ u.inputs = rest := by
  induction l generalizing n s with
  | nil => exact ⟨s, rfl, hs, hin⟩
  | cons x l ih =>
    have hcount : (x :: l).count .sequencer = [x].count .sequencer + l.count .sequencer :=
      List.count_append (l₁ := [x])
    rw [hcount, ← Nat.add_assoc] at hn ⊢
    obtain ⟨t, hstep, ht, htin⟩ := hs.step_interleaved hin (hl x List.mem_cons_self) (by omega)
    obtain ⟨u, hrun, hu, huin⟩ := ih ht htin (fun y hy => hl y (List.mem_cons_of_mem x hy)) hn
    exact ⟨u, (runSteps_succ_of_step hstep).trans hrun, hu, huin⟩

/-- The host's COMPRESS, taken from the schedule of an idle cell, is accepted. -/
theorem step_compress_idle {rest : List Stimulus} (hb : s.busy = false)
    (hin : s.inputs = .host (writeOf 0x010 0x00000001 0b1111) :: rest) :
    step s = .next (accept (s.setInputs rest)) := by
  rw [step_host hin, hostStep_compress]
  exact exec_compress_idle hb

end

/-- Settles O54: a beginning of the interleaving has done at most 64 rounds, all of it has done 64, and the sequencer's
next step is the feed-forward. -/
theorem compressionUnderEveryInterleaving : Obligations.CompressionUnderEveryInterleaving := by
  intro s l rest hb hin hl hcount
  have haccept := step_compress_idle hb hin
  have hstart := accept_compressing (s.setInputs (l ++ .sequencer :: rest))
  constructor
  · intro n hn
    have hsplit : l ++ .sequencer :: rest = l.take n ++ (l.drop n ++ .sequencer :: rest) := by
      rw [← List.append_assoc, List.take_append_drop]
    have hle : (l.take n).count .sequencer ≤ 64 := hcount ▸ (List.take_sublist n l).count_le _
    have htake : ∀ x ∈ l.take n, x.interleaved = true := fun x hx => hl x (List.mem_of_mem_take hx)
    obtain ⟨u, hrun, hu, -⟩ := hstart.runSteps_interleaved hsplit htake (by omega)
    rw [List.length_take_of_le hn] at hrun
    exact ⟨u, (runSteps_succ_of_step haccept).trans hrun, hu.busy, hu.done, hu.chain_eq, hu.msg_eq⟩
  · obtain ⟨u, hrun, hu, huin⟩ := hstart.runSteps_interleaved rfl hl (by omega)
    rw [hcount] at hu
    obtain ⟨t, hstep, hbusy, hdone, hchain, hmsg, hrc, htin⟩ := (hu.setInputs rest).sequencerStep_feedforward
    refine ⟨t, ?_, hchain, hmsg, hbusy, hdone, hrc, htin⟩
    rw [runSteps_succ_of_step haccept, runSteps_succ_last hrun, step_sequencer huin, hstep]

/-! ### The blocks of a sequence -/

section
variable {s t : State} {rest : List Stimulus}

/-- The sequencer leaves ERRCODE and the schedule (R93, R94). -/
theorem sequencerStep_frame (h : sequencerStep s = .next t) : t.errcode = s.errcode ∧ t.inputs = s.inputs := by
  cases hb : s.busy with
  | false => rw [sequencerStep_idle hb] at h; cases h; exact ⟨rfl, rfl⟩
  | true => cases sequencerStep_effect hb h <;> exact ⟨rfl, rfl⟩

theorem runSteps_sequencer_errcode {k : Nat} (hin : s.inputs = List.replicate k .sequencer ++ rest)
    (h : runSteps k s = .next t) : t.errcode = s.errcode := by
  induction k generalizing s with
  | zero => cases h; rfl
  | succ k ih =>
    obtain ⟨u, hstep, hrun⟩ := runSteps_succ_next h
    rw [step_sequencer hin] at hstep
    obtain ⟨hcode, huin⟩ := sequencerStep_frame hstep
    exact (ih huin hrun).trans hcode

/-- A full-word write stores its data (R36). -/
theorem mergeLanes_full (old wdata : Word) : mergeLanes old wdata 0b1111#4 = wdata := by
  refine word_eq_of_lanes _ _ fun k hk => ?_
  have henabled : ∀ k < 4, (0b1111#4).getLsbD k = true := by decide
  rw [lane_mergeLanes _ _ _ k hk, mergeLane, if_pos (henabled k hk)]

/-- The write of `loadBlock` that loads word j. -/
def loadWord (msg : Vector Word 16) (j : Fin 16) : Access := fullWrite (msgOffset (BitVec.ofNat 4 j.val)) msg[j]

theorem loadBlock_eq (msg : Vector Word 16) : loadBlock msg = (List.finRange 16).map (loadWord msg) := rfl

theorem step_loadWord (hb : s.busy = false) {msg : Vector Word 16} {j : Fin 16}
    (hin : s.inputs = .host (loadWord msg j) :: rest) :
    step s = .next ((s.setMsg (s.msg.set j msg[j])).setInputs rest) := by
  have hj : (BitVec.ofNat 4 j.val).toNat = j.val := by simp
  have hwrite := hostStep_wrMsg_idle (a := loadWord msg j) (s := s.setInputs rest) rfl rfl hb
  have hdata (old : Word) : mergeLanes old (loadWord msg j).wdata (loadWord msg j).wstrb = msg[j] :=
    mergeLanes_full old _
  rw [step_host hin, hwrite, hdata]
  simp only [State.setMsgWord, hj]
  rfl

/-- The writes of some words of a block leave those words in MSG, the other words as they were, and change nothing
else. -/
theorem runSteps_loadWords (hb : s.busy = false) {msg : Vector Word 16} {js : List (Fin 16)}
    (hin : s.inputs = (js.map (loadWord msg)).map .host ++ rest) :
    ∃ v : Vector Word 16, runSteps js.length s = .next ((s.setMsg v).setInputs rest) ∧
      ∀ j : Fin 16, v[j] = if j ∈ js then msg[j] else s.msg[j] := by
  induction js generalizing s with
  | nil =>
    obtain rfl : s.inputs = rest := hin
    exact ⟨s.msg, rfl, fun j => by simp⟩
  | cons i js ih =>
    have hstep := step_loadWord hb hin
    obtain ⟨v, hrun, hv⟩ := ih hb (s := (s.setMsg (s.msg.set i msg[i])).setInputs _) rfl
    refine ⟨v, (runSteps_succ_of_step hstep).trans hrun, fun j => ?_⟩
    rw [hv j]
    by_cases hij : j = i
    · subst hij; simp
    · have hne : i.val ≠ j.val := fun h => hij (Fin.ext h.symm)
      simp [hij, hne]

/-- The sixteen writes of a block leave it in MSG and change nothing else (R120). -/
theorem runSteps_loadBlock (hb : s.busy = false) {msg : Vector Word 16}
    (hin : s.inputs = (loadBlock msg).map .host ++ rest) :
    runSteps 16 s = .next ((s.setMsg msg).setInputs rest) := by
  rw [loadBlock_eq] at hin
  obtain ⟨v, hrun, hv⟩ := runSteps_loadWords hb hin
  have hmsg : v = msg := Vector.ext fun j hj => by simpa using hv ⟨j, hj⟩
  rwa [List.length_finRange, hmsg] at hrun

/-- A COMPRESS and the 65 sequencer steps of its compression, with no access between them, leave STATE = Compress of
STATE and MSG, and the error code as it was (R97, R120). -/
theorem runSteps_compress (hb : s.busy = false)
    (hin : s.inputs = .host (writeOf 0x010 0x00000001 0b1111) :: (List.replicate 65 .sequencer ++ rest)) :
    ∃ t, runSteps 66 s = .next t ∧ t.chain = compress s.chain s.msg ∧ t.busy = false ∧ t.errcode = s.errcode ∧
      t.inputs = rest := by
  have hlast : List.replicate 65 Stimulus.sequencer ++ rest = List.replicate 64 .sequencer ++ .sequencer :: rest := rfl
  obtain ⟨-, t, hrun, hchain, -, hbusy, -, -, htin⟩ := compressionUnderEveryInterleaving s
    (List.replicate 64 .sequencer) rest hb (hlast ▸ hin)
    (fun _ hx => List.eq_of_mem_replicate hx ▸ rfl) List.count_replicate_self
  rw [List.length_replicate] at hrun
  obtain ⟨u, hstep, hsequencer⟩ := runSteps_succ_next (n := 65) hrun
  rw [step_compress_idle hb hin] at hstep
  cases hstep
  have hcode := runSteps_sequencer_errcode (s := accept (s.setInputs _)) (k := 65) rfl hsequencer
  exact ⟨t, hrun, hchain, hbusy, hcode, htin⟩

/-- One block: the sixteen writes, the COMPRESS and its 65 sequencer steps leave STATE = Compress of STATE and the
block. -/
theorem runSteps_blockStimuli (hb : s.busy = false) {msg : Vector Word 16}
    (hin : s.inputs = blockStimuli msg ++ rest) :
    ∃ t, runSteps 82 s = .next t ∧ t.chain = compress s.chain msg ∧ t.busy = false ∧ t.errcode = s.errcode ∧
      t.inputs = rest := by
  have hsplit : blockStimuli msg ++ rest = (loadBlock msg).map .host ++
      .host (writeOf 0x010 0x00000001 0b1111) :: (List.replicate 65 .sequencer ++ rest) := by
    simp only [blockStimuli, List.append_assoc]
    rfl
  have hload := runSteps_loadBlock hb (hin.trans hsplit)
  obtain ⟨t, hrun, hcompress⟩ := runSteps_compress (s := (s.setMsg msg).setInputs _) hb rfl
  exact ⟨t, (runSteps_add_of_run hload).trans hrun, hcompress⟩

end

/-- Settles O56, by induction over the blocks: each starts from the STATE the one before it left. -/
theorem blocksThreadThroughState : Obligations.BlocksThreadThroughState := by
  intro blocks
  induction blocks with
  | nil => exact fun s rest hb hin => ⟨s, rfl, rfl, hb, rfl, hin⟩
  | cons msg blocks ih =>
    intro s rest hb hin
    rw [List.flatMap_cons, List.append_assoc] at hin
    obtain ⟨u, hfirst, huchain, hub, hucode, huin⟩ := runSteps_blockStimuli hb hin
    obtain ⟨t, hrun, hchain, htb, hcode, htin⟩ := ih u rest hub huin
    refine ⟨t, ?_, ?_, htb, hcode.trans hucode, htin⟩
    · rw [List.length_cons, Nat.mul_succ, Nat.add_comm, runSteps_add_of_run hfirst, hrun]
    · rw [hchain, huchain, compressSeq_cons]

end Sys2Proof.Machine
end

section
/-! PROOFS of the family 43_host_commands: what each rejected access records, what the reads and writes of the registers
and the commands do, and that a host procedure that comes to its end has computed CompressSeq. -/

namespace Sys2Proof

/-! ### Offsets and words by number -/

theorem ofNat_stateOffset (n : BitVec 2) : BitVec.ofNat 10 (4 * n.toNat) = stateOffset n := by
  rw [← stateOffset_toNat, BitVec.ofNat_toNat, BitVec.setWidth_eq]

theorem ofNat_kromOffset (i : BitVec 6) : BitVec.ofNat 10 (0x100 + 4 * i.toNat) = kromOffset i := by
  rw [← kromOffset_toNat, BitVec.ofNat_toNat, BitVec.setWidth_eq]

theorem toNat_getLsbD (w : Word) (k : Nat) : (w.getLsbD k).toNat = w.toNat / 2 ^ k % 2 :=
  Nat.toNat_testBit w.toNat k

end Sys2Proof

namespace Sys2Proof.Machine

/-! ### What a host access and a command write run -/

section
variable (s : State)

/-- A host access runs the one instruction its direction and offset fit (R55). -/
theorem hostStep_of_view {a : Access} {i : Instr} (h : BusView a i) : hostStep a s = exec i s := by
  rw [hostStep, h.decodeBus_eq]

/-- A full-word write to CMD runs the command of its word (R102). -/
theorem hostStep_command {word : Word} {i : Instr} (h : decodeCmd word 0b1111 = i) :
    hostStep (writeOf 0x010 word 0b1111) s = exec i s := by
  rw [hostStep_of_view s (.wrCmd rfl rfl), exec_wrCmd]
  exact congrArg (exec · s) h

/-! ### The rejected accesses -/

theorem rejected_code (e : ErrCode) (a : Access) : rejected e.code a s = rejectAccess e a.we a.addr s := by
  rw [rejected, rejectAccess, recorded_code]
  rfl

/-- The writes to read-only registers (R117). -/
theorem rejectReadOnly_eq (addr : Offset) : rejectReadOnly addr s = .next (recorded 4 addr s) :=
  congrArg Host.Outcome.next (recorded_code .badAccess addr s).symm

end

/-- Settles O13: a misaligned offset fits ACC.MISALIGNED alone, whatever the access. -/
theorem misalignedAccessIsRejected : Obligations.MisalignedAccessIsRejected := by
  intro s a h
  have ha : a.addr.aligned = false := by simpa [← Offset.aligned_iff] using h
  have hexec : exec (.accMisaligned a.we a.addr) s = .next (rejected 5 a s) :=
    congrArg Host.Outcome.next (rejected_code s .misaligned a).symm
  exact ⟨hexec, (hostStep_of_view s (.accMisaligned ha)).trans hexec⟩

/-- Settles O14: the three ranges are the unmapped offsets, which fit ACC.UNMAPPED alone. -/
theorem unmappedAccessIsRejected : Obligations.UnmappedAccessIsRejected := by
  intro s a ha hu
  have hunmapped : a.addr.unmapped = true := Offset.unmapped_iff.mpr (by omega)
  have hexec : exec (.accUnmapped a.we a.addr) s = .next (rejected 4 a s) :=
    congrArg Host.Outcome.next (rejected_code s .badAccess a).symm
  exact ⟨hexec, (hostStep_of_view s (.accUnmapped (Offset.aligned_iff.mpr ha) hunmapped)).trans hexec⟩

/-- Settles O15: the meanings look neither at data nor at strobe, and the ROM is no part of the state. -/
theorem readOnlyWriteIsRejected : Obligations.ReadOnlyWriteIsRejected := by
  intro s wdata wstrb i j
  rw [ofNat_kromOffset, ofNat_sromOffset]
  exact ⟨rejectReadOnly_eq s _, rejectReadOnly_eq s _, rejectReadOnly_eq s _, rejectReadOnly_eq s _,
    hostStep_of_view s (.wrStatus rfl rfl), hostStep_of_view s (.wrId rfl rfl), hostStep_of_view s (.wrKrom i rfl rfl),
    hostStep_of_view s (.wrSrom i rfl rfl), fun _ _ => ⟨_, _, rfl, rfl, rfl, rfl⟩⟩

/-! ### The reads -/

/-- Settles O16: each read returns the register's word to the host. -/
theorem registerReadsReturnTheirWord : Obligations.RegisterReadsReturnTheirWord := by
  intro s n j
  rw [ofNat_stateOffset, ofNat_msgOffset]
  exact ⟨rfl, rfl, rfl, rfl, hostStep_of_view s (.rdState n rfl rfl), hostStep_of_view s (.rdMsg j rfl rfl),
    hostStep_of_view s (.rdCmd rfl rfl), hostStep_of_view s (.rdId rfl rfl)⟩

/-- The fields of STATUS are digit ranges of its word (R22). -/
theorem statusWord_toNat (s : State) : s.statusWord.toNat =
    s.busy.toNat + 2 * s.done.toNat + 16 * s.errcode.toNat + 256 * s.errovf.toNat + 65536 * s.erraddr.toNat := by
  have hcode := s.errcode.isLt
  simp only [State.statusWord, BitVec.toNat_append, BitVec.toNat_ofNat, BitVec.toNat_ofBool, Nat.zero_mod,
    Nat.zero_shiftLeft, Nat.zero_or, ← Nat.shiftLeft_add_eq_or_of_lt, hcode, Bool.toNat_lt, Nat.two_pow_pos, pow_one]
  omega

/-- DIE and EIE are the two low bits of CTRL (R23). -/
theorem ctrlWord_toNat (s : State) : s.ctrlWord.toNat = s.die.toNat + 2 * s.eie.toNat := by
  simp only [State.ctrlWord, BitVec.toNat_append, BitVec.toNat_ofNat, BitVec.toNat_ofBool, Nat.zero_mod,
    Nat.zero_shiftLeft, Nat.zero_or, ← Nat.shiftLeft_add_eq_or_of_lt, Bool.toNat_lt, pow_one]
  omega

/-- Settles O17: the word is its fields by number, and by the invariant DONE is 0 while BUSY is 1. -/
theorem statusReadShowsItsFields : Obligations.StatusReadShowsItsFields := by
  intro s
  refine ⟨s.setRdata s.statusWord, rfl, hostStep_of_view s (.rdStatus rfl rfl), rfl, statusWord_toNat s,
    fun hs hb => ?_⟩
  rw [State.setRdata_rdata, statusWord_toNat, hb, (hs.compressing hb).done, Bool.toNat_true, Bool.toNat_false]
  omega

/-- Settles O18: the word is its two bits by number. -/
theorem controlReadShowsTheEnables : Obligations.ControlReadShowsTheEnables := fun s =>
  ⟨s.setRdata s.ctrlWord, rfl, hostStep_of_view s (.rdCtrl rfl rfl), rfl, ctrlWord_toNat s⟩

/-- Settles O21: the table is no part of the state. -/
theorem kromReadsAreIdempotent : Obligations.KromReadsAreIdempotent := by
  intro s i a
  obtain ⟨t, ht⟩ := hostStep_next a s
  rw [ofNat_kromOffset]
  exact ⟨rfl, hostStep_of_view s (.rdKrom i rfl rfl), t, _, ht, rfl, rfl⟩

/-! ### The writes to CTRL and STATE -/

section
variable (s : State) (wdata : Word) {wstrb : Strobe}

theorem exec_wrCtrl_enabled (hl : wstrb.getLsbD 0 = true) :
    exec (.wrCtrl wdata wstrb) s = .next (s.setCtrl (wdata.getLsbD 0) (wdata.getLsbD 1)) :=
  congrArg Host.Outcome.next (if_pos hl)

theorem exec_wrCtrl_disabled (hl : wstrb.getLsbD 0 = false) : exec (.wrCtrl wdata wstrb) s = .next s :=
  congrArg Host.Outcome.next (if_neg (Bool.eq_false_iff.mp hl))

end

/-- Settles O19, by lane 0: the two bits written are the word's value modulo 4. -/
theorem controlWriteSetsTheEnables : Obligations.ControlWriteSetsTheEnables := by
  intro s wdata wstrb
  have hhost : hostStep (writeOf 0x018 wdata wstrb) s = exec (.wrCtrl wdata wstrb) s :=
    hostStep_of_view s (.wrCtrl rfl rfl)
  cases hl : wstrb.getLsbD 0 with
  | false =>
    have hexec := exec_wrCtrl_disabled s wdata hl
    exact ⟨s, hexec, hhost.trans hexec, nofun, fun _ => rfl, nofun, nofun⟩
  | true =>
    have hexec := exec_wrCtrl_enabled s wdata hl
    refine ⟨_, hexec, hhost.trans hexec, fun _ => rfl, nofun, fun _ => ⟨_, rfl, ?_⟩, fun _ hdie hdone => ?_⟩
    · rw [State.setRdata_rdata, ctrlWord_toNat, State.setCtrl_die, State.setCtrl_eie, toNat_getLsbD, toNat_getLsbD]
      omega
    · simp [State.irq, hdie, hdone]

/-- Settles O22: the guards of the write one by one, and while idle the merge lane by lane. -/
theorem stateWriteMergesTheEnabledLanes : Obligations.StateWriteMergesTheEnabledLanes := by
  intro s n wdata wstrb
  rw [ofNat_stateOffset]
  refine ⟨hostStep_of_view s (.wrState n rfl rfl), ?_, fun hz hb => ?_,
    fun hb => ⟨_, exec_wrState_idle hb n wdata wstrb, rfl, fun k hk => ?_, fun m hm => ?_⟩⟩
  · rintro rfl; rfl
  · rw [recorded_writeWhileBusy]
    simp [exec, execWrState, guardedWrite, hz, hb]
  · rw [State.chainWord_setChainWord, if_pos rfl, lane_mergeLanes _ _ _ k hk, mergeLane]
  · rw [State.chainWord_setChainWord, if_neg hm.symm]

/-! ### NOP and ACK -/

/-- Settles O28: command word 0 is NOP. -/
theorem nopChangesNothing : Obligations.NopChangesNothing := fun s =>
  ⟨rfl, hostStep_command s (i := .nop) (by decide)⟩

/-- Settles O30: command word 2 is ACK, and with DONE and ERRCODE clear no enable asserts irq. -/
theorem ackClearsDoneAndErrors : Obligations.AckClearsDoneAndErrors := fun s =>
  ⟨acknowledge s, rfl, hostStep_command s (i := .ack) (by decide), rfl, by simp [State.irq, acknowledge]⟩

/-! ### What a turn of the host and the cell does -/

section
variable {r q : ScriptRun} {s t u : State}

/-- `u` is `t`, or is `t` after a step of the sequencer, which it has only where BUSY was 1 before the access (R142). -/
def SequencerMayStep (busy : Bool) (t u : State) : Prop := u = t ∨ busy = true ∧ sequencerStep t = .next u

theorem SequencerMayStep.eq_of_idle (h : SequencerMayStep false t u) : u = t := h.resolve_right (by simp)

/-- What one turn does, said once: the host's access, if it presents one, and then perhaps the sequencer (R11, R142). -/
inductive TurnEffect (r : ScriptRun) : ScriptRun → Prop
  | passes {u : State} : SequencerMayStep r.cell.busy r.cell u → TurnEffect r { r with cell := u }
  | presents {a : Access} {t u : State} : r.access = some a → hostStep a r.cell = .next t →
      SequencerMayStep r.cell.busy t u → TurnEffect r (r.after a u)

theorem step_present_host (a : Access) (s : State) : step (s.setInputs (.host a :: s.inputs)) = hostStep a s :=
  step_host rfl

theorem step_present_sequencer (s : State) : step (s.setInputs (.sequencer :: s.inputs)) = sequencerStep s :=
  step_sequencer rfl

theorem step_present_clock (p : Pins) (s : State) : step (s.setInputs (.clock p :: s.inputs)) = clockEdge p s :=
  step_clock rfl

theorem sequencerStep_mayStep (h : sequencerStep s = .next u) : SequencerMayStep s.busy s u := by
  cases hb : s.busy with
  | false => rw [sequencerStep_idle hb] at h; cases h; exact .inl rfl
  | true => exact .inr ⟨rfl, h⟩

/-- A clock cycle without reset is the access presented, if any, and then perhaps the sequencer's step (R142). -/
theorem clockEdge_mayStep {p : Pins} (hr : p.rstN = true) (h : clockEdge p s = .next u) :
    ∃ t, (if p.valid then hostStep p.access s else .next s) = .next t ∧ SequencerMayStep s.busy t u := by
  obtain ⟨hreset, -⟩ | ⟨-, t, ht, hedge⟩ := clockEdge_cases p s
  · rw [hr] at hreset; cases hreset
  · refine ⟨t, ht, ?_⟩
    rw [hedge] at h
    cases hb : s.busy with
    | false => rw [hb] at h; cases h; exact .inl rfl
    | true => rw [hb] at h; exact .inr ⟨rfl, h⟩

theorem scriptTurn_effect {x : Turn} (h : scriptTurn x r = .next q) : TurnEffect r q := by
  cases x <;> simp only [scriptTurn] at h
  case host =>
    cases ha : r.access with
    | none => rw [ha] at h; cases h; exact .passes (.inl rfl)
    | some a =>
      rw [ha] at h
      obtain ⟨t, ht, ⟨_, ⟨⟩, rfl⟩ | ⟨⟨⟩, -⟩⟩ := ScriptRun.present_cases h
      rw [step_present_host] at ht
      exact .presents ha ht (.inl rfl)
  case sequencer =>
    obtain ⟨t, ht, ⟨_, ⟨⟩, -⟩ | ⟨-, rfl⟩⟩ := ScriptRun.present_cases h
    rw [step_present_sequencer] at ht
    exact .passes (sequencerStep_mayStep ht)
  case cycle =>
    cases ha : r.access with
    | none =>
      rw [ha] at h
      obtain ⟨t, ht, ⟨_, ⟨⟩, -⟩ | ⟨-, rfl⟩⟩ := ScriptRun.present_cases h
      rw [step_present_clock] at ht
      obtain ⟨_, ⟨⟩, hmay⟩ := clockEdge_mayStep rfl ht
      exact .passes hmay
    | some a =>
      rw [ha] at h
      obtain ⟨u, hu, ⟨_, ⟨⟩, rfl⟩ | ⟨⟨⟩, -⟩⟩ := ScriptRun.present_cases h
      rw [step_present_clock] at hu
      obtain ⟨t, ht, hmay⟩ := clockEdge_mayStep rfl hu
      exact .presents ha ht hmay

end

/-! ### The STATE a cell comes to -/

/-- STATE once the cell is idle: what the compression that runs, if one does, leaves (R97). -/
def State.outcome (s : State) : Vector Word 4 := if s.busy then compress s.chain s.msg else s.chain

/-- The error fields of STATUS (R22). -/
def State.errorFields (s : State) : BitVec 4 × Bool × Offset := (s.errcode, s.errovf, s.erraddr)

/-- `t` is `s` further on: the same compression and the same record of errors. -/
structure Continues (s t : State) : Prop where
  inv            : Inv t
  outcome_eq     : t.outcome = s.outcome
  errorFields_eq : t.errorFields = s.errorFields
  rdata_eq       : t.rdata = s.rdata

section
variable {s t u : State}

theorem State.outcome_idle (hb : s.busy = false) : s.outcome = s.chain := by simp [State.outcome, hb]

theorem State.outcome_busy (hb : s.busy = true) : s.outcome = compress s.chain s.msg := by simp [State.outcome, hb]

/-- A round leaves STATE and MSG, and the feed-forward puts Compress of them in STATE (R93, R94, R97). -/
theorem SequencerEffect.continues (h : SequencerEffect s t) (hs : Inv s) (hb : s.busy = true) : Continues s t := by
  refine ⟨h.keeps_inv hs hb, ?_, ?_, ?_⟩
  · cases h with
    | round _ => rfl
    | feedforward hrc =>
      have hworking := hs.progress hb
      rw [hrc] at hworking
      rw [State.outcome_idle rfl, State.outcome_busy hb, compress_eq]
      exact congrArg (addWorking s.chain) hworking
  all_goals cases h <;> rfl

theorem SequencerMayStep.continues {busy : Bool} (h : SequencerMayStep busy s t) (hs : Inv s) : Continues s t := by
  obtain rfl | ⟨-, hstep⟩ := h
  · exact ⟨hs, rfl, rfl, rfl⟩
  · cases hb : s.busy with
    | true => exact (sequencerStep_effect hb hstep).continues hs hb
    | false => rw [sequencerStep_idle hb] at hstep; cases hstep; exact ⟨hs, rfl, rfl, rfl⟩

/-- The word read is no part of the invariant. -/
theorem Inv.setRdata (h : Inv s) (v : Word) : Inv (s.setRdata v) := (inv_iff _).mpr ((inv_iff s).mp h)

/-- While BUSY = 0 the invariant asks nothing of STATE and MSG. -/
theorem Inv.setChain (h : Inv s) (hb : s.busy = false) (v : Vector Word 4) : Inv (s.setChain v) :=
  (inv_iff _).mpr ⟨runOk_idle hb (h.rc_idle hb), ((inv_iff s).mp h).2⟩

theorem Inv.setMsg (h : Inv s) (hb : s.busy = false) (v : Vector Word 16) : Inv (s.setMsg v) :=
  (inv_iff _).mpr ⟨runOk_idle hb (h.rc_idle hb), ((inv_iff s).mp h).2⟩

end

/-- The cell is idle with `chain` in STATE and with the error fields `errors`. -/
structure Settled (chain : Vector Word 4) (errors : BitVec 4 × Bool × Offset) (s : State) : Prop where
  inv            : Inv s
  idle           : s.busy = false
  chain_eq       : s.chain = chain
  errorFields_eq : s.errorFields = errors

/-! ### What a script that comes to its end has done -/

/-- However the turns fall, a host with `todo` before it that comes to its end has seen no `expect` fail, and the words
returned and the cell are then as `Q` says. -/
def Ensures (Q : List Word → State → Prop) (todo : List HostOp) (returned : List Word) (s : State) : Prop :=
  ∀ (turns : List Turn) (issued : List Access) (q : ScriptRun),
    runTurns turns ⟨todo, false, issued, returned, s⟩ = .next q → q.todo = [] → q.failed = false ∧ Q q.returned q.cell

/-- The same from every idle cell with this STATE and these error fields, whatever was read before. -/
def EnsuresFrom (Q : List Word → State → Prop) (todo : List HostOp) (chain : Vector Word 4)
    (errors : BitVec 4 × Bool × Offset) : Prop :=
  ∀ returned s, Settled chain errors s → Ensures Q todo returned s

section
variable {Q : List Word → State → Prop} {rest : List HostOp} {returned : List Word} {s t u : State} {a : Access}
  {chain : Vector Word 4} {errors : BitVec 4 × Bool × Offset}

/-- Once the script is done and the cell is idle, no turn changes anything. -/
theorem Ensures.done (hb : s.busy = false) (h : Q returned s) : Ensures Q [] returned s := by
  intro turns issued q hrun _
  induction turns with
  | nil => cases hrun; exact ⟨rfl, h⟩
  | cons x turns ih =>
    obtain ⟨p, hp, hrest⟩ := runTurns_cons hrun
    cases scriptTurn_effect hp with
    | passes hmay => cases SequencerMayStep.eq_of_idle (hb ▸ hmay); exact ih hrest
    | presents ha => cases ha

/-- On an idle cell nothing happens before the access in hand, and its effect is that of a host step. -/
theorem Ensures.access (hb : s.busy = false) (hstep : hostStep a s = .next t)
    (h : Ensures Q rest (if a.we then returned else returned ++ [t.rdata]) t) :
    Ensures Q (.access a :: rest) returned s := by
  intro turns issued q hrun hq
  induction turns with
  | nil => cases hrun; cases hq
  | cons x turns ih =>
    obtain ⟨p, hp, hrest⟩ := runTurns_cons hrun
    cases scriptTurn_effect hp with
    | passes hmay => cases SequencerMayStep.eq_of_idle (hb ▸ hmay); exact ih hrest
    | presents ha ht hmay =>
      cases ha
      cases hstep.symm.trans ht
      cases SequencerMayStep.eq_of_idle (hb ▸ hmay)
      exact h turns _ q hrest hq

theorem Ensures.write (hb : s.busy = false) (hwe : a.we = true) (hstep : hostStep a s = .next t)
    (h : Ensures Q rest returned t) : Ensures Q (.access a :: rest) returned s :=
  .access hb hstep (by rwa [if_pos hwe])

/-! ### The waits -/

/-- A wait of either kind presents reads of STATUS alone. -/
theorem opAccess_waitOp {irq : Bool} {w : WaitBy} (h : opAccess irq (waitOp w) = some a) : a = readOf statusOffset := by
  cases w with
  | polling => cases h; rfl
  | irq => cases irq <;> cases h; rfl

/-- A wait ends only on a STATUS that shows BUSY = 0 or DONE = 1, and by the invariant both are of an idle cell (R22). -/
theorem todoAfter_waitOp (hs : Inv s) (w : WaitBy) (rest : List HostOp) :
    todoAfter s.statusWord (waitOp w :: rest) = (waitOp w :: rest, false) ∨
    todoAfter s.statusWord (waitOp w :: rest) = (rest, false) ∧ s.busy = false := by
  cases w with
  | polling =>
    simp only [waitOp, todoAfter, waitAgain_statusWord]
    cases s.busy <;> simp
  | irq =>
    simp only [waitOp, todoAfter, readsDone_statusWord]
    cases hd : s.done with
    | false => exact .inl rfl
    | true => exact .inr ⟨rfl, Bool.eq_false_iff.mpr fun hb => hs.exclusive ⟨hb, hd⟩⟩

/-- A wait that ends leaves the cell idle, with what the compression that ran left in STATE (R97, R120). -/
theorem Ensures.wait {w : WaitBy} (hs : Inv s) (h : EnsuresFrom Q rest s.outcome s.errorFields) :
    Ensures Q (waitOp w :: rest) returned s := by
  intro turns
  induction turns generalizing s returned with
  | nil => intro issued q hrun hq; cases hrun; cases hq
  | cons x turns ih =>
    intro issued q hrun hq
    obtain ⟨p, hp, hrest⟩ := runTurns_cons hrun
    cases scriptTurn_effect hp with
    | passes hmay =>
      have hnext := hmay.continues hs
      exact ih hnext.inv (hnext.outcome_eq ▸ hnext.errorFields_eq ▸ h) issued q hrest hq
    | @presents a t u ha ht hmay =>
      obtain rfl := opAccess_waitOp ha
      rw [hostStep_read _ rfl] at ht
      have ht : s.setRdata s.statusWord = t := by simpa [readOf, afterRead_statusOffset] using ht
      subst ht
      have hnext := hmay.continues (hs.setRdata _)
      have hword : u.rdata = s.statusWord := hnext.rdata_eq
      simp only [ScriptRun.after, hword] at hrest
      obtain hwait | ⟨hgo, hb⟩ := todoAfter_waitOp hs w rest
      · rw [hwait] at hrest
        exact ih hnext.inv (hnext.outcome_eq ▸ hnext.errorFields_eq ▸ h) _ q hrest hq
      · rw [hgo] at hrest
        cases SequencerMayStep.eq_of_idle (hb ▸ hmay)
        have hsettled : Settled s.outcome s.errorFields (s.setRdata s.statusWord) :=
          ⟨hnext.inv, hb, (State.outcome_idle hb).symm, rfl⟩
        exact h _ _ hsettled turns _ q hrest hq

/-! ### The parts of the host procedure -/

/-- A read of STATE[n] returns its word and leaves a settled cell settled (R106). -/
theorem Ensures.read {n : BitVec 2} (hs : Settled chain errors s)
    (h : ∀ t, Settled chain errors t → Ensures Q rest (returned ++ [chain[n.toNat]'n.isLt]) t) :
    Ensures Q (.access (readOf (stateOffset n)) :: rest) returned s := by
  obtain ⟨hinv, hb, rfl, rfl⟩ := hs
  have hread : hostStep (readOf (stateOffset n)) s = .next (s.setRdata (s.chainWord n)) :=
    hostStep_of_view s (.rdState n rfl rfl)
  exact .access hb hread (h _ ⟨hinv.setRdata _, hb, rfl, rfl⟩)

/-- Writes that are no COMPRESS, one after the other, take an idle cell where the same accesses of a schedule do. -/
theorem Ensures.writes {l : List Access} (hb : s.busy = false) (hl : ∀ a ∈ l, a.we = true ∧ a.isCommand 1 = false)
    (hrun : runSteps l.length (s.setInputs (l.map .host ++ s.inputs)) = .next u) (h : Ensures Q rest returned u) :
    Ensures Q (l.map .access ++ rest) returned s := by
  induction l generalizing s with
  | nil => cases hrun; exact h
  | cons a l ih =>
    obtain ⟨⟨hwe, hcmd⟩, hl⟩ := List.forall_mem_cons.mp hl
    obtain ⟨t, ht⟩ := hostStep_next a s
    have hstep : step (s.setInputs ((a :: l).map .host ++ s.inputs)) =
        .next (t.setInputs (l.map .host ++ t.inputs)) := by
      rw [hostStep_inputs ht]
      exact (step_host rfl).trans (exec_setInputs ht _)
    have hbt : t.busy = false := by
      obtain hkeep | ⟨-, b, hab, hb1⟩ := (hostStep_effect ht).busy_cases
      · rw [hkeep, hb]
      · cases hab; rw [hcmd] at hb1; cases hb1
    exact .write hb hwe ht (ih hbt hl ((runSteps_succ_of_step hstep).symm.trans hrun))

theorem loadBlock_writes (msg : Vector Word 16) : ∀ a ∈ loadBlock msg, a.we = true ∧ a.isCommand 1 = false := by
  have hoffset : ∀ j : Fin 16, (msgOffset (BitVec.ofNat 4 j.val) == 0x010#10) = false := by decide
  rw [loadBlock_eq, List.forall_mem_map]
  intro j _
  have hnocmd : ((loadWord msg j).addr == 0x010#10) = false := hoffset j
  exact ⟨rfl, by simp [Access.isCommand, hnocmd]⟩

theorem loadBlock_length (msg : Vector Word 16) : (loadBlock msg).length = 16 := by
  rw [loadBlock, List.length_map, List.length_finRange]

theorem accept_outcome (s : State) : (accept s).outcome = compress s.chain s.msg := State.outcome_busy rfl

/-- The writes of a block, presented to an idle cell one by one, leave it in MSG and change nothing else (R68). -/
theorem runSteps_present_loadBlock (hb : s.busy = false) (msg : Vector Word 16) :
    runSteps (loadBlock msg).length (s.setInputs ((loadBlock msg).map .host ++ s.inputs)) = .next (s.setMsg msg) := by
  rw [loadBlock_length]
  exact runSteps_loadBlock (s := s.setInputs ((loadBlock msg).map .host ++ s.inputs)) hb rfl

/-- A block loaded, compressed and waited for takes STATE to Compress of it and the block (R97, R120). -/
theorem EnsuresFrom.block {b : BlockBytes} {w : WaitBy}
    (h : EnsuresFrom Q rest (compress chain (parseBlock b)) errors) :
    EnsuresFrom Q (blockOps (waitOp w) b ++ rest) chain errors := by
  rw [blockOps, List.append_assoc]
  generalize parseBlock b = msg at h ⊢
  rintro returned s ⟨hs, hb, rfl, rfl⟩
  have hcompress : hostStep (fullWrite cmdOffset (commandWord .compress)) (s.setMsg msg) =
      .next (accept (s.setMsg msg)) := (hostStep_compress _).trans (exec_compress_idle hb)
  have haccepted : Inv (accept (s.setMsg msg)) := (hostStep_effect hcompress).keeps_inv (hs.setMsg hb msg)
  exact .writes hb (loadBlock_writes msg) (runSteps_present_loadBlock hb msg)
    (.write hb rfl hcompress (.wait haccepted (accept_outcome (s.setMsg msg) ▸ h)))

/-- The blocks one after the other take STATE to CompressSeq (R99). -/
theorem EnsuresFrom.blocks {blocks : List (BlockBytes × WaitBy)}
    (h : EnsuresFrom Q rest (compressSeq chain (blocks.map fun p => parseBlock p.1)) errors) :
    EnsuresFrom Q (blocks.flatMap (fun p => blockOps (waitOp p.2) p.1) ++ rest) chain errors := by
  induction blocks generalizing chain with
  | nil => exact h
  | cons p blocks ih =>
    rw [List.flatMap_cons, List.append_assoc]
    exact .block (ih h)

theorem Ensures.loadStateWord {n : BitVec 2} {v : Word} (hb : s.busy = false)
    (h : Ensures Q rest returned (s.setChainWord n v)) :
    Ensures Q (.access (fullWrite (stateOffset n) v) :: rest) returned s := by
  have hstep := hostStep_wrState_idle (a := fullWrite (stateOffset n) v) rfl rfl hb
  exact .write hb rfl hstep ((mergeLanes_full (s.chainWord n) v).symm ▸ h)

theorem chain_eq_words (s : State) : s.chain = #v[s.chainWord 0, s.chainWord 1, s.chainWord 2, s.chainWord 3] := by
  refine Vector.ext fun i hi => ?_
  interval_cases i <;> rfl

/-- The four writes of `ldstate` put the four words in STATE (R68). -/
theorem EnsuresFrom.loadState {a b c d : Word} (h : EnsuresFrom Q rest #v[a, b, c, d] errors) :
    EnsuresFrom Q ((loadState a b c d).map .access ++ rest) chain errors := by
  rintro returned s ⟨hs, hb, -, rfl⟩
  refine .loadStateWord hb (.loadStateWord hb (.loadStateWord hb (.loadStateWord hb (h _ _ ?_))))
  refine ⟨hs.setChain hb _, hb, ?_, rfl⟩
  rw [chain_eq_words]
  simp [State.chainWord_setChainWord]

/-- The last words returned are the four of STATE, and the cell is settled. -/
def ReadBack (chain : Vector Word 4) (errors : BitVec 4 × Bool × Offset) (returned : List Word) (s : State) : Prop :=
  (∃ before, returned = before ++ s.chain.toList) ∧ Settled chain errors s

/-- The four reads of `rdstate` return STATE (R68). -/
theorem ensuresFrom_readState : EnsuresFrom (ReadBack chain errors) (readState.map .access) chain errors := by
  intro returned s hs
  refine .read hs fun _ h1 => .read h1 fun _ h2 => .read h2 fun _ h3 => .read h3 fun t ht =>
    .done ht.idle ⟨⟨returned, ?_⟩, ht⟩
  rw [← ht.chain_eq, congrArg Vector.toList (chain_eq_words t)]
  simp [State.chainWord]

end

/-- Settles O58, part by part: the first wait leaves the cell idle, the writes load the state given, each block takes it
on by Compress, and the reads return it. -/
theorem hostProcedureComputesCompressSeq : Obligations.HostProcedureComputesCompressSeq := by
  intro a b c d blocks turns s r hs hrun hdone
  have hprocedure : EnsuresFrom
      (ReadBack (compressSeq #v[a, b, c, d] (blocks.map fun p => parseBlock p.1)) s.errorFields)
      ((loadState a b c d).map .access ++
        (blocks.flatMap (fun p => blockOps (waitOp p.2) p.1) ++ readState.map .access))
      s.outcome s.errorFields := .loadState (.blocks ensuresFrom_readState)
  have hensures := Ensures.wait (w := .polling) (returned := []) hs hprocedure
  rw [← List.append_assoc] at hensures
  obtain ⟨hfailed, ⟨before, hreturned⟩, hsettled⟩ := hensures turns [] r hrun hdone
  exact ⟨before, hreturned, hsettled.chain_eq, hsettled.idle, hfailed, hsettled.errorFields_eq⟩

end Sys2Proof.Machine
end

section
/-! PROOFS of the family 60_exceptions: what an access records in the error fields, alone and in the cycle of the
feed-forward, how long a record stays, when irq is high, and that the cells of a platform share nothing. -/

namespace Sys2Proof

/-- A command is one access: the full-word write of its word to CMD (R102). -/
theorem Access.eq_of_isCommand {a : Access} {word : Word} (h : a.isCommand word = true) :
    a = writeOf 0x010 word 0b1111 := by
  obtain ⟨we, addr, wdata, wstrb⟩ := a
  simp only [Access.isCommand, Bool.and_eq_true, beq_iff_eq] at h
  obtain ⟨⟨⟨rfl, rfl⟩, rfl⟩, rfl⟩ := h
  rfl

end Sys2Proof

namespace Sys2Proof.Machine

/-! ### The error fields after an access -/

section
variable {s t : State} {a : Access} {code : BitVec 4}

theorem raiseError_errorFields (e : ErrCode) (addr : Offset) (s : State) : (raiseError e addr s).errorFields =
    if s.errcode = 0#4 then (e.code, s.errovf, addr) else (s.errcode, true, s.erraddr) := by
  unfold raiseError
  split <;> rfl

theorem rejected_errorFields (code : BitVec 4) (a : Access) (s : State) : (rejected code a s).errorFields =
    if s.errcode = 0#4 then (code, s.errovf, a.addr) else (s.errcode, true, s.erraddr) := by
  unfold rejected recorded
  split_ifs <;> rfl

/-- A rejected write does nothing but record its error (R34, R123). -/
theorem rejected_write (e : ErrCode) (hwe : a.we = true) : rejected e.code a s = raiseError e a.addr s := by
  rw [rejected_code, hwe]; rfl

/-- What an access can do to the error fields: nothing, clear them as an ACK, or record its error (R105, R123). -/
theorem AccessEffect.errorFields_cases {p : Option Access} (h : AccessEffect s p t) : t.errorFields = s.errorFields ∨
    ∃ a, p = some a ∧ (a.isCommand 2 = true ∨
      ∃ e : ErrCode, errorOf s a = some e.code ∧ t.errorFields = (raiseError e a.addr s).errorFields) := by
  cases h with
  | acknowledges hack => exact .inr ⟨_, rfl, .inl hack⟩
  | rejects e herr => exact .inr ⟨_, rfl, .inr ⟨e, herr, by simp [State.errorFields]⟩⟩
  | _ => exact .inl rfl

/-! ### The one error of an access -/

theorem guardedWrite_busy {wstrb : Strobe} (hz : wstrb ≠ 0#4) (hb : s.busy = true) (addr : Offset)
    (write : State → State) : guardedWrite wstrb addr write s = raiseError .writeWhileBusy addr s := by
  simp [guardedWrite, hz, hb]

/-- A write to a read-only register (R117). -/
theorem hostStep_readOnly (hwe : a.we = true) (ha : a.addr.aligned = true) (hr : a.addr.readOnly = true) :
    hostStep a s = .next (rejected 4 a s) := by
  rw [hostStep_write s hwe, afterWrite_readOnly s _ _ ⟨ha, hr⟩, ← rejected_write .badAccess hwe]
  rfl

/-- A write to CMD of no legal command (R59). -/
theorem hostStep_illegalCommand (hwe : a.we = true) (haddr : a.addr = cmdOffset)
    (hl : legalCommand a.wdata a.wstrb = false) : hostStep a s = .next (rejected 1 a s) := by
  rw [hostStep_of_view s (.wrCmd hwe haddr), exec_wrCmd, decodeCmd_illegal_iff.mpr hl]
  exact congrArg Host.Outcome.next (haddr ▸ rejected_write .illegalCmd hwe).symm

/-- A COMPRESS while BUSY = 1 (R104). -/
theorem hostStep_compress_busy (hcmd : a.isCommand 1 = true) (hb : s.busy = true) :
    hostStep a s = .next (rejected 2 a s) := by
  rw [Access.eq_of_isCommand hcmd, hostStep_compress, exec_compress_busy hb]
  exact congrArg Host.Outcome.next (rejected_write (a := writeOf 0x010 1 0b1111) .cmdWhileBusy rfl).symm

/-- A write to STATE or MSG while BUSY = 1 (R107, R109). -/
theorem hostStep_busyWrite (hwe : a.we = true) (ha : a.addr.aligned = true) (hi : a.addr.inBlockOrState = true)
    (hz : a.wstrb ≠ 0#4) (hb : s.busy = true) : hostStep a s = .next (rejected 3 a s) := by
  have hreject : rejected 3 a s = raiseError .writeWhileBusy a.addr s := rejected_write .writeWhileBusy hwe
  rw [hostStep_write s hwe, hreject]
  obtain haddr | haddr := Offset.eq_stateOffset_or_msgOffset (Offset.aligned_iff.mp ha) hi <;> rw [haddr]
  · rw [afterWrite_stateOffset, guardedWrite_busy hz hb]
  · rw [afterWrite_msgOffset, guardedWrite_busy hz hb]

/-- The first cause in R124's order is recorded, and the access does nothing else. -/
theorem hostStep_of_errorOf (h : errorOf s a = some code) : hostStep a s = .next (rejected code a s) := by
  unfold errorOf at h
  split_ifs at h with hal hun hro hill hcb hwb <;> cases h
  · have hrange := Offset.unmapped_iff.mp hun
    have hlt := a.addr.isLt
    exact (unmappedAccessIsRejected s a (Offset.aligned_iff.mp hal) (by omega)).2
  · obtain ⟨hwe, hr⟩ := hro
    exact hostStep_readOnly hwe hal hr
  · obtain ⟨hwe, haddr, hl⟩ := hill
    exact hostStep_illegalCommand hwe haddr (Bool.eq_false_iff.mpr hl)
  · obtain ⟨hwe, haddr, hword, hb⟩ := hcb
    have hs : a.wstrb = 0b1111#4 := by
      by_contra hs
      exact hill ⟨hwe, haddr, fun hl => hs (legalCommand_iff.mp hl).1⟩
    exact hostStep_compress_busy (by simp [Access.isCommand, hwe, haddr, hword, hs]) hb
  · obtain ⟨hwe, hi, hz, hb⟩ := hwb
    exact hostStep_busyWrite hwe hal hi hz hb
  · exact (misalignedAccessIsRejected s a (hal ∘ Offset.aligned_iff.mpr)).2

theorem errorFields_of_errorOf (hstep : hostStep a s = .next t) (h : errorOf s a = some code) : t.errorFields =
    if s.errcode = 0#4 then (code, s.errovf, a.addr) else (s.errcode, true, s.erraddr) := by
  rw [hostStep_of_errorOf h] at hstep
  cases hstep
  exact rejected_errorFields code a s

/-- An ACK clears the error fields, BUSY or not (R105). -/
theorem errorFields_of_ack (hstep : hostStep a s = .next t) (hack : a.isCommand 2 = true) :
    t.errorFields = (0#4, false, 0#10) := by
  rw [Access.eq_of_isCommand hack, hostStep_command s (i := .ack) (by decide)] at hstep
  cases hstep
  rfl

/-- No other access without an error touches the error fields. -/
theorem errorFields_of_no_error (hstep : hostStep a s = .next t) (h : errorOf s a = none) : t.errorFields =
    if a.isCommand 2 then (0#4, false, 0#10) else s.errorFields := by
  split
  case isTrue hack => exact errorFields_of_ack hstep hack
  case isFalse hack =>
    obtain hsame | ⟨b, hab, hack' | ⟨e, herr, -⟩⟩ := (hostStep_effect hstep).errorFields_cases
    · exact hsame
    · cases hab; exact absurd hack' hack
    · cases hab; rw [h] at herr; cases herr

end

/-- Settles O12: cause by cause in R124's order, and without a cause by what an access can do to the error fields. -/
theorem accessReportsItsFirstError : Obligations.AccessReportsItsFirstError := by
  intro s a
  refine ⟨fun code h => hostStep_of_errorOf h, fun h => ?_⟩
  obtain ⟨t, hstep⟩ := hostStep_next a s
  exact ⟨t, hstep, errorFields_of_no_error hstep h⟩

/-! ### The cycle of the feed-forward -/

/-- The access acts on the state before the edge, and the feed-forward on what the access leaves (R142). -/
theorem step_clock_feedforward {s u : State} {a : Access} {rest : List Stimulus}
    (hin : s.inputs = .clock ⟨true, true, a⟩ :: rest) (hb : s.busy = true) (hrc : s.rc = 64#7)
    (hu : hostStep a (s.setInputs rest) = .next u) :
    step s = .next (((u.setChain (addWorking u.chain u.working)).setRun false true).setRc 0) := by
  obtain ⟨hub, hurc⟩ := (hostStep_effect hu).keeps_busy_rc hb
  have hdecode : decodeSeq u.rc = .ok .seqFeedforward := by rw [hurc, State.setInputs_rc, hrc]; rfl
  have hedge : step s = sequencerStep u := by simp [step_clock hin, clockEdge, hu, hb]
  rw [hedge, sequencerStep_of_decodeSeq hub hdecode, exec_seqFeedforward hub]

/-- Settles O9: the access leaves STATE, MSG and W to the feed-forward, which leaves the error fields to the access. -/
theorem accessInTheFeedforwardCycle : Obligations.AccessInTheFeedforwardCycle := by
  intro s a rest hin hb hrc hwe
  obtain ⟨u, hu⟩ := hostStep_next a (s.setInputs rest)
  have heffect := hostStep_effect hu
  have hrecorded {code : BitVec 4} (herr : errorOf (s.setInputs rest) a = some code) := errorFields_of_errorOf hu herr
  refine ⟨_, step_clock_feedforward hin hb hrc hu, rfl, rfl, rfl, ?_, heffect.keeps_msg hb, fun ha hi hz => ?_,
    fun hcmd => ?_, fun hack => (errorFields_of_ack hu hack :)⟩
  · exact congrArg₂ addWorking (heffect.keeps_chain hb) (heffect.keeps_working hb)
  · exact hrecorded (errorOf_busyWrite hwe ha hi hz hb)
  · obtain rfl := Access.eq_of_isCommand hcmd
    have herr : errorOf (s.setInputs rest) (writeOf 0x010 1 0b1111) = some 2#4 := by
      rw [errorOf_command rfl rfl, if_neg (by decide), if_pos ⟨rfl, hb⟩]; rfl
    exact hrecorded herr

/-! ### The first error -/

theorem State.errorFields_eq_iff {s : State} {code : BitVec 4} {ovf : Bool} {addr : Offset} :
    s.errorFields = (code, ovf, addr) ↔ s.errcode = code ∧ s.errovf = ovf ∧ s.erraddr = addr := by
  simp [State.errorFields]

/-- After the first error an access without ACK leaves the error fields, or sets ERROVF alone (R123). -/
theorem AccessEffect.keeps_first_error {s u : State} {p : Option Access} (h : AccessEffect s p u)
    (hcode : s.errcode ≠ 0#4) (hnoack : ∀ a, p = some a → a.isCommand 2 = false) :
    ∃ ovf, u.errorFields = (s.errcode, ovf, s.erraddr) ∧ (s.errovf = true → ovf = true) := by
  obtain hsame | ⟨a, hp, hack | ⟨e, -, hrecord⟩⟩ := h.errorFields_cases
  · exact ⟨s.errovf, hsame, id⟩
  · rw [hnoack a hp] at hack; cases hack
  · exact ⟨true, by rw [hrecord, raiseError_errorFields, if_neg hcode], fun _ => rfl⟩

/-- Settles O44: an access without ACK keeps the record, and the sequencer leaves the error fields alone. -/
theorem firstErrorSticks : Obligations.FirstErrorSticks := by
  intro s t h hcode hnoreset hnoack
  obtain ⟨hreset, -⟩ | ⟨u, hacc, hfields⟩ := (step_effect h).field_cases State.errorFields fun _ _ _ => rfl
  · rw [hnoreset] at hreset; cases hreset
  · obtain ⟨ovf, hu, hovf⟩ := hacc.keeps_first_error hcode hnoack
    have ht : t.errorFields = u.errorFields := by
      obtain hkeep | ⟨-, rfl⟩ := hfields
      · exact hkeep
      · rfl
    obtain ⟨hcode', hovf', haddr'⟩ := State.errorFields_eq_iff.mp (ht.trans hu)
    exact ⟨hcode', haddr', fun hset => hovf'.trans (hovf hset)⟩

/-! ### The interrupt -/

/-- DONE is bit 1 of STATUS (R22). -/
theorem statusWord_done (s : State) : s.statusWord.toNat / 2 % 2 = s.done.toNat := by
  have hbusy := s.busy.toNat_lt
  have hdone := s.done.toNat_lt
  rw [statusWord_toNat]
  omega

/-- ERRCODE is bits 7:4 of STATUS (R22). -/
theorem statusWord_errcode (s : State) : s.statusWord.toNat / 16 % 16 = s.errcode.toNat := by
  have hbusy := s.busy.toNat_lt
  have hdone := s.done.toNat_lt
  have hcode := s.errcode.isLt
  rw [statusWord_toNat]
  omega

/-- DIE is bit 0 of CTRL (R23). -/
theorem ctrlWord_die (s : State) : s.ctrlWord.toNat % 2 = s.die.toNat := by
  have hdie := s.die.toNat_lt
  rw [ctrlWord_toNat]
  omega

/-- EIE is bit 1 of CTRL (R23). -/
theorem ctrlWord_eie (s : State) : s.ctrlWord.toNat / 2 % 2 = s.eie.toNat := by
  have hdie := s.die.toNat_lt
  have heie := s.eie.toNat_lt
  rw [ctrlWord_toNat]
  omega

theorem State.irq_iff (s : State) :
    s.irq = true ↔ s.die = true ∧ s.done = true ∨ s.eie = true ∧ s.errcode ≠ 0#4 := by
  simp [State.irq]

/-- Settles O50: the bits named are DIE, DONE, EIE and ERRCODE. -/
theorem irqFollowsStatusAndControl : Obligations.IrqFollowsStatusAndControl := by
  intro s
  refine ⟨s.setRdata s.statusWord, s.setRdata s.ctrlWord, rfl, rfl, ?_⟩
  rw [State.setRdata_rdata, State.setRdata_rdata, ctrlWord_die, ctrlWord_eie, statusWord_done, statusWord_errcode,
    State.irq_iff]
  simp [BitVec.toNat_eq]

/-! ### The cells of a platform -/

/-- Settles O59: a step of cell k that answers is a write of entry k. -/
theorem cellsShareNothing : Obligations.CellsShareNothing := by
  intro nCells p q k j h hjk
  unfold stepCell at h
  cases hstep : step p[k] with
  | next s =>
    rw [hstep] at h
    cases h
    exact Vector.getElem_set_ne _ _ (fun hkj => hjk (Fin.ext hkj.symm))
  | fault e => rw [hstep] at h; cases h
  | refused e => rw [hstep] at h; cases h

end Sys2Proof.Machine
end

section
/-! PROOFS of the family 70_reset_and_hazards: what a clock edge is, with rst_n = 0, with an access presented and with
none, and that it does what the interleaving model does. -/

namespace Sys2Proof.Machine

section
variable {s t : State} {p : Pins} {a : Access} {rest : List Stimulus}

/-! ### One clock edge -/

theorem clockEdge_reset (hr : p.rstN = false) : clockEdge p s = .next (resetEdge p s) := by simp [clockEdge, hr]

theorem clockEdge_access (hr : p.rstN = true) (hv : p.valid = true) (ht : hostStep p.access s = .next t) :
    clockEdge p s = if s.busy then sequencerStep t else .next t := by
  simp [clockEdge, hr, hv, ht]

/-- With no access presented an edge is the sequencer's step, which is no step while BUSY = 0 (R92, R142). -/
theorem clockEdge_no_access (hr : p.rstN = true) (hv : p.valid = false) : clockEdge p s = sequencerStep s := by
  cases hb : s.busy with
  | false => simp [clockEdge, hr, hv, hb, sequencerStep_idle]
  | true => simp [clockEdge, hr, hv, hb]

/-- A read presented at a reset edge returns 0 (R137). -/
theorem resetEdge_rdata (hv : p.valid = true) (hwe : p.access.we = false) : (resetEdge p s).rdata = 0 := by
  simp [resetEdge, hv, hwe]

/-! ### The interleaving model -/

theorem runSteps_one (s : State) : runSteps 1 s = step s := runSteps_succ_last (runSteps_zero s)

/-- A host step does not look at the stimuli that follow it. -/
theorem hostStep_setInputs (h : hostStep a s = .next t) (l : List Stimulus) :
    hostStep a (s.setInputs l) = .next (t.setInputs l) := exec_setInputs h l

/-- A host step and then a sequencer step: the sequencer acts on the state the access leaves (R11). -/
theorem runSteps_host_sequencer (ht : hostStep a (s.setInputs rest) = .next t) :
    runSteps 2 (s.setInputs (.host a :: .sequencer :: rest)) = sequencerStep t := by
  have hrest : t.setInputs rest = t := by
    obtain rfl : t.inputs = rest := hostStep_inputs ht
    exact t.setInputs_self
  have hhost : step (s.setInputs (.host a :: .sequencer :: rest)) = .next (t.setInputs (.sequencer :: rest)) := by
    rw [step_host rfl]
    exact hostStep_setInputs ht _
  rw [runSteps_succ_of_step hhost, runSteps_one, step_sequencer rfl, State.setInputs_setInputs, hrest]

end

/-- Settles O8: the access acts on the state before the edge and never looks at the schedule, so that the sequencer's
step, where there is one, starts from one state at the edge and in the interleaving. -/
theorem clockEdgeIsAnInterleaving : Obligations.ClockEdgeIsAnInterleaving := by
  intro s p rest hin hr
  rw [step_clock hin]
  obtain ⟨t, ht⟩ := hostStep_next p.access (s.setInputs rest)
  refine ⟨fun hv hb => ?_, fun hv hb => ?_, fun hv _ => ?_, fun hv hb => ?_⟩
  · rw [clockEdge_access hr hv ht, State.setInputs_busy, if_pos hb, runSteps_host_sequencer ht]
  · rw [clockEdge_access hr hv ht, State.setInputs_busy, if_neg (by simp [hb]), runSteps_one, step_host rfl,
      State.setInputs_setInputs, ht]
  · rw [clockEdge_no_access hr hv, runSteps_one, step_sequencer rfl, State.setInputs_setInputs]
  · rw [clockEdge_no_access hr hv]
    exact sequencerStep_idle hb

/-- Settles O52: the edge is `resetEdge`, whose fields are R29's values, and the constants need no reset. -/
theorem resetEdgeClearsTheCell : Obligations.ResetEdgeClearsTheCell := by
  intro s p rest hin hr
  have hstep : step s = .next (resetEdge p (s.setInputs rest)) := by rw [step_clock hin, clockEdge_reset hr]
  exact ⟨_, hstep, rfl, rfl, rfl, rfl, rfl, rfl, rfl, rfl, rfl, rfl, rfl, rfl, resetEdge_rdata,
    readsConstants_always _⟩

end Sys2Proof.Machine
end
